-- ==== Sys2Proof/Word.lean ====
section
/-! DEFINITION. The word types of the core (spec/00_scope.md R5, R10, R11): 16-bit data words, 32-bit
microinstruction words, task numbers, register selects, and micro-addresses. -/

namespace Sys2Proof

/-- A data word of the 16-bit data path (R5). -/
abbrev Word := BitVec 16

/-- A word of the microcode store (R60, R80). -/
abbrev MicroWord := BitVec 32

/-- A task number, 0 to 15 (R11: `Task = Fin 16`). -/
abbrev Task := Fin 16

/-- The 5-bit register select (R33, R66). -/
abbrev RegSel := BitVec 5

/-- A 10-bit offset within a page of 1024 words (R100). -/
abbrev PageOffset := BitVec 10

/-- A micro-address: its page bits `[AW-1:10]` and its offset bits `[9:0]` (R34, R103). The spec's number
is `MicroAddr.toNat`; log entry 11 says why the two parts are held apart. -/
structure MicroAddr where
  page : Nat
  offset : PageOffset
deriving DecidableEq, Repr

/-- The words of one microcode page (R9, `PAGE`). -/
abbrev pageWords : Nat := 1024

/-- The index of a micro-address in the microcode store (R60). -/
def MicroAddr.toNat (a : MicroAddr) : Nat := a.page * pageWords + a.offset.toNat

/-- The micro-address with a given index. -/
def MicroAddr.ofNat (n : Nat) : MicroAddr :=
  { page := n / pageWords, offset := BitVec.ofNat 10 n }

/-- The two phases of a microcycle's handlers (R151: phase 0 early, phase 1 late). -/
inductive Phase where
  | early
  | late
deriving DecidableEq, Repr

/-- The three dispatched fields (R151, R241). -/
inductive Field where
  | bs
  | f1
  | f2
deriving DecidableEq, Repr

end Sys2Proof
end

