-- ==== Sys2Proof/Config.lean ====
section
/-! DEFINITION. The configuration of the core (spec/00_scope.md R9) as plain data, and the language in which a
launch describes a collaborator's handler (spec/42_dispatch.md R150). Everything here is launch data: no
rule of the core writes it (R20). The defaults stand in Machine/Launch.lean. -/

namespace Sys2Proof

/-- What a described handler can read as a 16-bit value (R150: a handler may read any state; log entry 6). -/
inductive Operand where
  | imm (v : Word)                          -- a constant
  | bus                                     -- BUS
  | t                                       -- T
  | l                                       -- L
  | m                                       -- M
  | alu                                     -- ALU
  | r                                       -- R[RSEL], with the live RSEL
  | rAt (i : RegSel)                        -- R[i]
  | s (bank : Nat)                          -- S[bank][RSEL]
  | sAt (bank : Nat) (i : RegSel)           -- S[bank][i]
  | wakeup                                  -- WAKEUP
deriving DecidableEq, Repr

/-- When a line of a described handler acts (log entry 6). -/
inductive Guard where
  | always
  | isZero (o : Operand)
  | nonZero (o : Operand)
  | bitSet (o : Operand) (n : Nat)
  | carry                                   -- ALUC0
  | lCarry                                  -- LALUC0
  | skip                                    -- SKIP
  | nowBelow (ns : Nat)                     -- NOW < ns
deriving DecidableEq, Repr

/-- The writes a handler may make: exactly those R150 lists, so that a handler outside its contract cannot be
written down (spec/93_implementation_defined.md U8). -/
inductive Action where
  | driveBus (o : Operand)                  -- BUS <- BUS & o, the bus convention of R157
  | setBus (o : Operand)                    -- BUS <- o, which the contract of R150 also allows
  | setR (o : Operand)                      -- R[RSEL] <- o
  | setRAt (i : RegSel) (o : Operand)       -- R[i] <- o
  | setS (bank : Nat) (o : Operand)         -- S[bank][RSEL] <- o
  | setSAt (bank : Nat) (i : RegSel) (o : Operand)
  | setT (o : Operand)
  | setL (o : Operand)
  | setM (o : Operand)
  | setRsel (o : Operand)                   -- RSEL <- o[4:0]
  | setSkip (b : Bool)
  | setWakeup (o : Operand)
  | wake (task : Task)                      -- set one bit of WAKEUP
  | unwake (task : Task)                    -- clear one bit of WAKEUP
  | setBankSel (task : Task) (n : Nat)
  | orNext2 (o : Operand)                   -- NEXT2 <- NEXT2 | o[9:0] (R104)
  | logAnomaly (text : String)              -- append a CollaboratorAnomaly (R245, kind 4)
  | insert (delay : Nat) (callback : Nat) (arg : Int) (name : String)
  | remove (id : Nat)
deriving DecidableEq, Repr

/-- What a line of a described handler does: a write of its contract, a fatal outcome (R150, R242 kind 3), or the
forbidden call of `execute` (R205, R242 kind 4). -/
inductive Effect where
  | act (a : Action)
  | fail (reason : String)
  | callExecute
deriving DecidableEq, Repr

/-- One line of a described handler. -/
structure ScriptLine where
  guard : Guard
  effect : Effect
deriving DecidableEq, Repr

/-- A handler, activate callback, tick hook or timer callback (R150): described by a script that runs line by
line, or a collaborator whose behaviour is open, known by a number (`Config.collaborator`, log entry 6). -/
inductive Handler where
  | script (lines : List ScriptLine)
  | external (id : Nat)
deriving DecidableEq, Repr

/-- One registered slot of a dispatch table (R151): `FN_X[phase][task][code] = handler`. -/
structure Registration where
  phase : Phase
  task : Task
  code : Nat
  handler : Handler
deriving DecidableEq, Repr

/-- The stall predicate (R162): constantly false, described by a guard, or open (`Config.stallAnswer`). -/
inductive Stall where
  | never
  | whenever (g : Guard)
  | external (id : Nat)
deriving DecidableEq, Repr

/-- A bitwise function of BUS and T by its truth table: its value where both bits are 1, where only the BUS bit is,
where only the T bit is, and where neither is. -/
structure BitFn where
  both : Bool
  busOnly : Bool
  tOnly : Bool
  neither : Bool
deriving DecidableEq, Repr

/-- What the table may hold for a defined ALU code: the 14 functions of spec/30_encoding.md R84 and, because the spec leaves
the table OPEN (decision D15), every other bitwise function in logic mode and every other sum of the form of R123,
BUS + Y + c, with Y a bitwise function of BUS and T and c a constant. `busPlusSkip` at a code other than 013 adds 0, because
R140 lets the carry-in affect no other code. That a corrected table stays within these forms is the model's choice (DESIGN
CHOICE, log entry 22). -/
inductive AluFn where
  | bus
  | t
  | busOrT
  | busAndT
  | busXorT
  | busPlus1
  | busMinus1
  | busPlusT
  | busMinusT
  | busMinusTMinus1
  | busPlusTPlus1
  | busPlusSkip
  | busDotT
  | busAndNotT
  | otherLogic (f : BitFn)
  | otherSum (y : BitFn) (c : Bool)
deriving DecidableEq, Repr

/-- What the ALU reports (spec/41_alu.md R120): the result, the carry out, and whether T latches from the ALU. -/
structure AluOutcome where
  result : Word
  carryOut : Bool
  tsel : Bool
deriving DecidableEq, Repr, Inhabited

/-- `UNDEF_ALU` (spec/41_alu.md R138): the source's policy with its fixed carry, or a replacement the spec leaves
open (`Config.undefAluResult`, `Config.undefAluTsel`, log entry 17). -/
inductive UndefAlu where
  | busAndZero (carry : Bool)
  | external
deriving DecidableEq, Repr

/-- `CRAM_LAYOUT` (spec/40_microcode_store.md R105): the bit positions in `CRAM_ADDR` of the word offset and the bank, each
from its least significant bit up, and of the half-select and ROM/RAM bits. The spec leaves them OPEN (decision D22); that
any positions are accepted, scattered or shared, and that a bank has as many bits as its list, is the model's choice (DESIGN
CHOICE, log entry 23). -/
structure CramLayout where
  wordBits : Vector (Fin 16) 10
  halfBit : Fin 16
  romBit : Fin 16
  bankBits : List (Fin 16)
deriving DecidableEq, Repr

/-- The configuration (spec/00_scope.md R9): the OPEN parameters and the launch inputs. -/
structure Config where
  nsBank : Nat                              -- NSBANK
  romPages : Nat                            -- ROM_PAGES
  ramPages : Nat                            -- RAM_PAGES
  cycleNs : Nat                             -- CYCLE_NS
  constRom : List (Nat × Word)              -- CONST_ROM, 256 words; an unlisted word is 0
  decodeProms : List (List Nat)             -- the decode PROMs, read by collaborators only (R65)
  f1Const : BitVec 4                        -- F1_CONST
  f2Const : BitVec 4                        -- F2_CONST
  f1Wrtram : BitVec 4                       -- F1_WRTRAM
  f1Rdram : BitVec 4                        -- F1_RDRAM
  ramTasks : List Task                      -- RAM_TASKS
  cramLayout : CramLayout                   -- CRAM_LAYOUT
  ucInv : MicroWord                         -- UC_INV
  logicCarry : Bool                         -- LOGIC_CARRY
  undefAlu : UndefAlu                       -- UNDEF_ALU, with UNDEF_CARRY
  aluTable : Vector AluFn 14                -- the function of codes 00 to 015 (log entry 22)
  tsel : Vector Bool 14                     -- TSEL of codes 00 to 015; true means ALU
  resetMpc : Vector Nat 16                  -- RESET_MPC
  fnBs : List Registration                  -- FN_BS (log entry 24 on a slot listed twice)
  fnF1 : List Registration                  -- FN_F1
  fnF2 : List Registration                  -- FN_F2
  activate : List (Task × Handler)          -- ACTIVATE (log entry 24 on a task listed twice)
  tick : Option Handler                     -- TICK
  stall : Stall                             -- STALL
  callbacks : List (Nat × Handler)          -- the timer callbacks, by number (log entry 7)
  hostSlice : Nat                           -- host_slice of R206
deriving DecidableEq, Repr

/-- The number of pages of the microcode store (R60). -/
abbrev Config.pages (c : Config) : Nat := c.romPages + c.ramPages

/-- Result and carry out of `UNDEF_ALU` when the launch replaces the default by something the spec does not give: a free
value of code and operands (log entry 17). -/
opaque Config.undefAluResult (code : BitVec 4) (a b : Word) : Word × Bool

/-- The `tsel` of a replaced `UNDEF_ALU`: a free value of the code alone, as R121 asks (log entry 17). -/
opaque Config.undefAluTsel (code : BitVec 4) : Bool

/-- What a read of an S register bank that does not exist gives: a free value (log entry 14). -/
opaque Config.absentBank (bank : Nat) (i : RegSel) : Word

end Sys2Proof
end

