-- ==== Sys2Proof/Machine/CoreSlots.lean ====
section
/-! DEFINITION. The dispatch tables (spec/42_dispatch.md R151, R152, R155, R156): what each slot holds, computed from
the configuration alone. -/

namespace Sys2Proof.Machine

/-- What a slot of a dispatch table holds (R151): a core-owned function (R155), a collaborator's handler, or the
fatal stub (R152). -/
inductive SlotFn where
  | taskFunction                            -- TASK, in both phases (R171)
  | flagRdram                               -- phase 1 of RDRAM (R107)
  | flagWrtram                              -- phase 1 of WRTRAM (R108)
  | noEffect                                -- the handler that returns its context (R156)
  | registered (h : Handler)
  | stub
deriving DecidableEq, Repr

/-- `F1_TASK`, fixed (R9). -/
def f1Task : BitVec 4 := 2#4

/-- The tasks that own RDRAM and WRTRAM (R155). -/
def isRamTask (c : Config) (task : Task) : Bool := c.ramTasks.contains task

/-- The core's function at an F1 slot, where the core owns it (R155). -/
def coreF1 (c : Config) (phase : Phase) (task : Task) (code : BitVec 4) : Option SlotFn :=
  if code = f1Task then some .taskFunction
  else if code = c.f1Const then some .noEffect
  else if code = c.f1Rdram ∧ isRamTask c task then
    some (match phase with | .early => .noEffect | .late => .flagRdram)
  else if code = c.f1Wrtram ∧ isRamTask c task then
    some (match phase with | .early => .noEffect | .late => .flagWrtram)
  else none

/-- The core's function at an F2 slot, where the core owns it (R155): the constant code, in every task. -/
def coreF2 (c : Config) (code : BitVec 4) : Option SlotFn :=
  if code = c.f2Const then some .noEffect else none

/-- The handler registered at a slot, if any. R151 gives a slot one handler and no rule says what a second registration
of the same slot does: the first one listed stands (DESIGN CHOICE, log entry 24). -/
def findRegistration (table : List Registration) (phase : Phase) (task : Task) (code : Nat) : Option Handler :=
  (table.find? fun g => decide (g.phase = phase ∧ g.task = task ∧ g.code = code)).map (·.handler)

/-- A slot no core function owns: the collaborator's handler, else the stub (R151, R152). -/
def collaboratorSlot (table : List Registration) (phase : Phase) (task : Task) (code : Nat) : SlotFn :=
  match findRegistration table phase task code with
  | some h => .registered h
  | none => .stub

/-- `FN_BS[phase][task][code]`: the core owns no BS code (R85). -/
def bsSlot (c : Config) (phase : Phase) (task : Task) (code : BitVec 3) : SlotFn :=
  collaboratorSlot c.fnBs phase task code.toNat

/-- `FN_F1[phase][task][code]`. -/
def f1Slot (c : Config) (phase : Phase) (task : Task) (code : BitVec 4) : SlotFn :=
  (coreF1 c phase task code).getD (collaboratorSlot c.fnF1 phase task code.toNat)

/-- `FN_F2[phase][task][code]`. -/
def f2Slot (c : Config) (phase : Phase) (task : Task) (code : BitVec 4) : SlotFn :=
  (coreF2 c code).getD (collaboratorSlot c.fnF2 phase task code.toNat)

/-- `ACTIVATE[task]`, if registered (R160). R160 gives a task one callback and no rule says what a second one does: the
first one listed stands (DESIGN CHOICE, log entry 24). -/
def activateOf (c : Config) (task : Task) : Option Handler :=
  (c.activate.find? fun p => decide (p.1 = task)).map (·.2)

/-- The timer callback with a given number; one the launch does not describe is a collaborator whose behaviour is
open (log entry 7), and of two descriptions of one number the first stands (DESIGN CHOICE, log entry 24). -/
def callbackOf (c : Config) (n : Nat) : Handler :=
  ((c.callbacks.find? fun p => decide (p.1 = n)).map (·.2)).getD (.external n)

end Sys2Proof.Machine
end

