-- ==== Sys2Proof/Machine/Memory.lean ====
section
/-! DEFINITION. Word-indexed stores (spec/20_memory.md R60, R64, R68) in one canonical form: a list of (address,
word) pairs with strictly rising addresses and no entry equal to what an unlisted address reads as (log
entry 8). -/

namespace Sys2Proof.Machine

/-- A store of `n`-bit words, sparse, by address. -/
abbrev Memory (n : Nat) := List (Nat × BitVec n)

/-- What an unlisted address reads as: the zero word (DESIGN CHOICE, log entry 8). -/
def unlistedWord (n : Nat) : BitVec n := 0#n

/-- The word at an address. -/
def Memory.read {n : Nat} (m : Memory n) (a : Nat) : BitVec n :=
  match m with
  | [] => unlistedWord n
  | (b, v) :: rest => if a = b then v else Memory.read rest a

/-- The list with the entry for `a` put in its place, before every greater address. -/
def Memory.put {n : Nat} (m : Memory n) (a : Nat) (v : BitVec n) : Memory n :=
  match m with
  | [] => [(a, v)]
  | (b, u) :: rest =>
    if a < b then (a, v) :: (b, u) :: rest
    else if a = b then (a, v) :: rest
    else (b, u) :: Memory.put rest a v

/-- The list without an entry for `a`. -/
def Memory.erase {n : Nat} (m : Memory n) (a : Nat) : Memory n := m.filter fun e => e.1 != a

/-- Write one word, keeping the canonical form: the unlisted word removes the entry. -/
def Memory.write {n : Nat} (m : Memory n) (a : Nat) (v : BitVec n) : Memory n :=
  if v = unlistedWord n then Memory.erase m a else Memory.put m a v

/-- The canonical form. -/
def Memory.wf {n : Nat} (m : Memory n) : Bool :=
  match m with
  | [] => true
  | (a, v) :: rest =>
    (v != unlistedWord n) && (rest.all fun e => decide (a < e.1)) && Memory.wf rest

/-- Every listed address is below a bound. -/
def Memory.below {n : Nat} (m : Memory n) (bound : Nat) : Bool := m.all fun e => decide (e.1 < bound)

end Sys2Proof.Machine
end

