-- ==== Sys2Proof/Machine/Launch.lean ====
section
/-! DEFINITION. The launch (spec/70_reset_and_hazards.md R264): the checks a model makes of a configuration, and the
default configuration of spec/92_eei_decisions.md and spec/95_test_vectors.md (log entries 2 and 3). -/

namespace Sys2Proof.Machine

/-- R264 item 1: the counts of R9. `RAM_PAGES ≥ 0` holds of every natural number. -/
def countsOk (c : Config) : Bool :=
  decide (1 ≤ c.romPages) && decide (1 ≤ c.nsBank) && decide (0 < c.cycleNs)

/-- R264 item 2: every reset micro-address lies inside `U`. -/
def resetMpcOk (c : Config) : Bool :=
  c.resetMpc.toList.all fun a => decide (a < c.pages * pageWords)

/-- R264 item 5 and R89: the four core F1 codes are distinct. -/
def f1CodesOk (c : Config) : Bool :=
  decide (f1Task ≠ c.f1Const ∧ f1Task ≠ c.f1Wrtram ∧ f1Task ≠ c.f1Rdram ∧
    c.f1Const ≠ c.f1Wrtram ∧ c.f1Const ≠ c.f1Rdram ∧ c.f1Wrtram ≠ c.f1Rdram)

/-- R155: no collaborator registers into a core-owned F1 slot. A slot may be listed twice (log entry 24). -/
def f1RegistrationsOk (c : Config) : Bool :=
  c.fnF1.all fun g => decide (g.code < 16) && (coreF1 c g.phase g.task (BitVec.ofNat 4 g.code)).isNone

/-- R155: no collaborator registers into the core-owned F2 slot. -/
def f2RegistrationsOk (c : Config) : Bool :=
  c.fnF2.all fun g => decide (g.code < 16) && (coreF2 c (BitVec.ofNat 4 g.code)).isNone

/-- The BS codes are 0 to 7 (R151). -/
def bsRegistrationsOk (c : Config) : Bool := c.fnBs.all fun g => decide (g.code < 8)

/-- R64: the constant ROM is a table of 256 words (in the canonical form of log entry 8). -/
def constRomOk (c : Config) : Bool := Memory.wf c.constRom && Memory.below c.constRom 256

/-- The S bank an operand names exists (R66; log entry 14). -/
def operandOk (nsBank : Nat) : Operand → Bool
  | .s b | .sAt b _ => decide (b < nsBank)
  | .imm _ | .bus | .t | .l | .m | .alu | .r | .rAt _ | .wakeup => true

/-- The S banks a guard names exist. -/
def guardOk (nsBank : Nat) : Guard → Bool
  | .isZero o | .nonZero o | .bitSet o _ => operandOk nsBank o
  | .always | .carry | .lCarry | .skip | .nowBelow _ => true

/-- The S banks a write names exist. -/
def actionOk (nsBank : Nat) : Action → Bool
  | .setS b o | .setSAt b _ o => decide (b < nsBank) && operandOk nsBank o
  | .driveBus o | .setBus o | .setR o | .setRAt _ o | .setT o | .setL o | .setM o | .setRsel o
  | .setWakeup o | .orNext2 o => operandOk nsBank o
  | .setSkip _ | .wake _ | .unwake _ | .setBankSel _ _ | .logAnomaly _ | .insert _ _ _ _ | .remove _ => true

/-- The S banks a described handler names exist. -/
def handlerOk (nsBank : Nat) : Handler → Bool
  | .script lines => lines.all fun ln =>
      guardOk nsBank ln.guard &&
        (match ln.effect with
          | .act a => actionOk nsBank a
          | .fail _ | .callExecute => true)
  | .external _ => true

/-- Every described collaborator keeps to the S banks that exist (R66, R150). -/
def handlersOk (c : Config) : Bool :=
  (c.fnBs.all fun g => handlerOk c.nsBank g.handler) &&
  (c.fnF1.all fun g => handlerOk c.nsBank g.handler) &&
  (c.fnF2.all fun g => handlerOk c.nsBank g.handler) &&
  (c.activate.all fun p => handlerOk c.nsBank p.2) &&
  (c.callbacks.all fun p => handlerOk c.nsBank p.2) &&
  (c.tick.all fun h => handlerOk c.nsBank h) &&
  (match c.stall with
    | .whenever g => guardOk c.nsBank g
    | .never | .external _ => true)

/-- A handler that returns its context (R156). -/
def inertHandler : Handler := .script []

/-- A handler of one unconditional write. -/
def oneAction (a : Action) : Handler := .script [⟨.always, .act a⟩]

/-- The BS handlers of the harness (spec/95_test_vectors.md section 0): 0 reads R, 1 writes R, 2 to 7 drive
nothing. -/
def harnessBs (task : Task) : List Registration :=
  [⟨.early, task, 0, oneAction (.driveBus .r)⟩, ⟨.late, task, 0, inertHandler⟩,
   ⟨.early, task, 1, inertHandler⟩, ⟨.late, task, 1, oneAction (.setR .alu)⟩] ++
  ([2, 3, 4, 5, 6, 7].flatMap fun code =>
    [⟨.early, task, code, inertHandler⟩, ⟨.late, task, code, inertHandler⟩])

/-- The F1 handler of the harness: code 0 does nothing. -/
def harnessF1 (task : Task) : List Registration :=
  [⟨.early, task, 0, inertHandler⟩, ⟨.late, task, 0, inertHandler⟩]

/-- The F2 handlers of the harness: 0 does nothing, 1 branches on a zero ALU. -/
def harnessF2 (task : Task) : List Registration :=
  [⟨.early, task, 0, inertHandler⟩, ⟨.late, task, 0, inertHandler⟩,
   ⟨.early, task, 1, inertHandler⟩,
   ⟨.late, task, 1, .script [⟨.isZero .alu, .act (.orNext2 (.imm 1#16))⟩]⟩]

/-- The default function of each defined ALU code (R84; from general knowledge, log entry 3). -/
def defaultAluTable : Vector AluFn 14 :=
  #v[.bus, .t, .busOrT, .busAndT, .busXorT, .busPlus1, .busMinus1, .busPlusT, .busMinusT,
     .busMinusTMinus1, .busPlusTPlus1, .busPlusSkip, .busDotT, .busAndNotT]

/-- The default `TSEL` (R121): ALU for 00, 02, 05, 06, 012, 013 and 014 (log entry 3). -/
def defaultTsel : Vector Bool 14 :=
  #v[true, false, true, false, false, true, true, false, false, false, true, true, true, false]

/-- The default layout of `CRAM_ADDR` (R105). -/
def defaultCramLayout : CramLayout :=
  { wordBits := #v[0, 1, 2, 3, 4, 5, 6, 7, 8, 9], halfBit := 10, romBit := 11, bankBits := [12, 13, 14, 15] }

/-- `RESET_MPC[t] = t` (R262). -/
def defaultResetMpc : Vector Nat 16 := #v[0, 1, 2, 3, 4, 5, 6, 7, 8, 9, 10, 11, 12, 13, 14, 15]

/-- The default configuration: R9, spec/92_eei_decisions.md, and where those leave a count or a launch input open
the default spec/95_test_vectors.md uses (log entry 2). -/
def defaultConfig : Config where
  nsBank := 1
  romPages := 1
  ramPages := 1
  cycleNs := 170
  constRom := []
  decodeProms := []
  f1Const := 7#4
  f2Const := 7#4
  f1Wrtram := 9#4
  f1Rdram := 10#4
  ramTasks := [0]
  cramLayout := defaultCramLayout
  ucInv := 0x00088C00#32
  logicCarry := false
  undefAlu := .busAndZero true
  aluTable := defaultAluTable
  tsel := defaultTsel
  resetMpc := defaultResetMpc
  fnBs := harnessBs 0
  fnF1 := harnessF1 0
  fnF2 := harnessF2 0
  activate := []
  tick := none
  stall := .never
  callbacks := []
  hostSlice := 1700

end Sys2Proof.Machine
end

