-- ==== Sys2Proof/Machine/State.lean ====
section
/-! DEFINITION. The state (spec/10_state.md R20 to R48): the context, one flat record of plain data, with the
launch's configuration beside it (log entry 1) and the host's side of the interface (log entry 4). -/

namespace Sys2Proof.Machine

/-- The kinds of fatal fault (spec/60_exceptions.md R242). -/
inductive FatalKind where
  /-- kind 1: a slot with no handler was reached (R152) -/
  | undefinedSlot
  /-- kind 2: TASK sampled `WAKEUP = 0` (R171) -/
  | noTaskRequesting
  /-- kind 3: a collaborator returned `fatal` (R150) -/
  | collaboratorFatal
  /-- kind 4: a collaborator called `execute` (R205) -/
  | reentrantExecute
deriving DecidableEq, Repr

/-- The diagnostic of a fatal fault (R241). In a fault that is no collaborator fault (kinds 1, 2 and 4) `reason` is the empty
string (DESIGN CHOICE, log entry 16). -/
structure FatalInfo where
  kind : FatalKind
  task : Task
  mpc : MicroAddr
  field : Option Field
  phase : Option Phase
  code : Option Nat
  now : Nat
  reason : String
deriving DecidableEq, Repr

/-- What an anomaly reports: its kind with the info R245 gives that kind. -/
inductive AnomalyReport where
  /-- kind 1: RDRAM outside the configured pages; `CRAM_ADDR` (R106) -/
  | rdramOutOfRange (addr : Word)
  /-- kind 2: ALU code 016 or 017; the ALUF value (R138, R139) -/
  | undefinedAluFunction (aluf : BitVec 4)
  /-- kind 3: WRTRAM to ROM or out of range; `CRAM_ADDR` (R109) -/
  | wrtramIgnored (addr : Word)
  /-- kind 4: a collaborator's own anomaly; its text -/
  | collaboratorAnomaly (text : String)
deriving DecidableEq, Repr

/-- One entry of the log (R244). -/
structure Anomaly where
  report : AnomalyReport
  task : Task
  mpc : MicroAddr
  now : Nat
deriving DecidableEq, Repr

/-- An event of the timer queue (R44). The callback is held by its number (log entry 7). -/
structure Event where
  id : Nat
  time : Nat
  callback : Nat
  arg : Int
  name : String
deriving DecidableEq, Repr

/-- A timer event that a collaborator registers before the first slice, through `insert` (spec/70_reset_and_hazards.md R264
item 6). -/
structure InitialEvent where
  delay : Nat
  callback : Nat
  arg : Int
  name : String
deriving DecidableEq, Repr

/-- A call of the host's (spec/44_engine.md R190, spec/45_timer.md R215; log entry 9). -/
inductive HostCall where
  | execute (budget : Nat)
  | insert (delay : Nat) (callback : Nat) (arg : Int) (name : String)
  | remove (id : Nat)
  | fireDue
  | timeUntilNext
deriving DecidableEq, Repr

/-- What a host call returned (R249; log entry 4). -/
inductive HostReply where
  | consumed (ns : Nat)
  | inserted (id : Nat)
  | removed (found : Bool)
  | fired (id : Option Nat)
  | untilNext (ns : Option Nat)
deriving DecidableEq, Repr

/-- The state of the machine. -/
structure State where
  r : Vector Word 32                        -- R[0..31] (R21)
  sBanks : List (Vector Word 32)            -- S[b][0..31] (R22)
  t : Word                                  -- T (R23)
  l : Word                                  -- L (R24)
  m : Word                                  -- M (R25)
  alu : Word                                -- ALU (R26)
  aluc0 : Bool                              -- ALUC0 (R27)
  laluc0 : Bool                             -- LALUC0 (R28)
  bus : Word                                -- BUS (R29)
  skip : Bool                               -- SKIP (R30)
  tself : Bool                              -- TSELF (R31)
  mir : MicroWord                           -- MIR (R32)
  rsel : RegSel                             -- RSEL, live (R33)
  mpc : MicroAddr                           -- MPC (R34)
  nextPc : MicroAddr                        -- NEXTPC (R35)
  next2 : PageOffset                        -- NEXT2 (R36)
  tmpc : Vector MicroAddr 16                -- TMPC[t] (R37)
  tnext2 : Vector PageOffset 16             -- TNEXT2[t] (R37)
  curTask : Task                            -- CURTASK (R38)
  nextTask : Task                           -- NEXTTASK (R38)
  nnTask : Task                             -- NNTASK (R38)
  wakeup : Word                             -- WAKEUP (R39)
  bankSel : Vector Nat 16                   -- BANKSEL[t] (R40)
  rdramPend : Bool                          -- RDRAM_PEND (R41)
  wrtramPend : Bool                         -- WRTRAM_PEND (R41)
  cramAddr : Word                           -- CRAM_ADDR (R41)
  now : Nat                                 -- NOW (R42)
  taskNs : Vector Nat 16                    -- TASK_NS[t] (R43)
  inSlice : Bool                            -- IN_SLICE (R43)
  sliceEnd : Nat                            -- SLICE_END (R43)
  remain : Int                              -- REMAIN (R43)
  leave : Bool                              -- LEAVE (R43)
  queue : List Event                        -- Q (R44)
  nextId : Nat                              -- NEXT_ID (R45)
  fatal : Option FatalInfo                  -- FATAL (R47)
  log : List Anomaly                        -- LOG (R48)
  store : Memory 32                         -- U (R60, R61)
  cfg : Config                              -- the configuration of R9, unwritten (log entry 1)
  hostCalls : List HostCall                 -- the model's own: the host's pending calls (log entry 4)
  budget : Nat                              -- the model's own: the running execute's argument (log entry 4)
  reply : Option HostReply                  -- the model's own: the last call's result (log entry 4)
deriving DecidableEq, Repr

/-- Why the machine stops with a fault. -/
inductive Fault where
  /-- Raised by `microcycle` when the fetch address lies outside `U`. The spec says that no such fetch happens
  (R62, R101), and no state with a valid micro-address reaches it. Safe: the model stops where the spec gives no
  word to fetch (log entry 12). -/
  | microAddressOutsideStore (a : Nat)
deriving DecidableEq, Repr

/-- Why a state or an instruction is given no meaning. -/
inductive Refusal where
  /-- Raised by an arm of `exec` for an instruction with no meaning yet. No arm raises it. Safe. -/
  | notModelled (mnemonic : String)
  /-- Raised by `step` and `launch` for a configuration that breaks R264, R89 or R155, which a model refuses. Safe
  (log entry 13). -/
  | illFormedConfiguration
  /-- Raised by `launch` for an image that is not in canonical form or lists a word outside `U` (R60, R264 item 3). Safe (log
  entry 13). -/
  | illFormedImage
deriving DecidableEq, Repr

/-- The state right after engine initialisation with a given configuration and image of `U` (R261, R262). -/
def State.init (c : Config) (image : Memory 32) : State where
  r := Vector.replicate 32 0#16
  sBanks := List.replicate c.nsBank (Vector.replicate 32 0#16)
  t := 0#16
  l := 0#16
  m := 0#16
  alu := 0#16
  aluc0 := false
  laluc0 := false
  bus := 0xFFFF#16
  skip := false
  tself := false
  mir := 0#32
  rsel := 0#5
  mpc := MicroAddr.ofNat c.resetMpc[0]
  nextPc := MicroAddr.ofNat c.resetMpc[0]
  next2 := 0#10
  tmpc := c.resetMpc.map MicroAddr.ofNat
  tnext2 := Vector.replicate 16 0#10
  curTask := 0
  nextTask := 0
  nnTask := 0
  wakeup := 0x0001#16
  bankSel := Vector.replicate 16 0
  rdramPend := false
  wrtramPend := false
  cramAddr := 0#16
  now := 0
  taskNs := Vector.replicate 16 0
  inSlice := false
  sliceEnd := 0
  remain := 0
  leave := false
  queue := []
  nextId := 1
  fatal := none
  log := []
  store := image
  cfg := c
  hostCalls := []
  budget := 0
  reply := none

/-- The machine right after reset, with the default configuration and nothing listed in `U` (log entries 2 and 8). -/
def State.reset : State := State.init defaultConfig []

end Sys2Proof.Machine
end

