-- ==== Sys2Proof/Syntax.lean ====
section
/-! DEFINITION. The microinstructions (spec/30_encoding.md R80): the eight fields of a word, and one constructor of
`Instr` for each row of spec/opcode_table.json. A row fixes one field; the constructor's arguments are all the
others, so that every term is a complete microinstruction (log entry 5). -/

namespace Sys2Proof

/-- The eight fields of a microinstruction word (R80). -/
structure Micro where
  rsel : RegSel
  aluf : BitVec 4
  bs : BitVec 3
  f1 : BitVec 4
  f2 : BitVec 4
  t : Bool
  l : Bool
  next : PageOffset
deriving DecidableEq, Repr

/-- The rows of the opcode table. Octal digits in a name are those of the row's mnemonic. -/
inductive Instr where
  | aluBus (rsel : RegSel) (bs : BitVec 3) (f1 f2 : BitVec 4) (t l : Bool) (next : PageOffset)  -- ALU.BUS, R124
  | aluT (rsel : RegSel) (bs : BitVec 3) (f1 f2 : BitVec 4) (t l : Bool) (next : PageOffset)  -- ALU.T, R125
  | aluBusOrT (rsel : RegSel) (bs : BitVec 3) (f1 f2 : BitVec 4) (t l : Bool) (next : PageOffset)  -- ALU.BUS_OR_T, R126
  | aluBusAndT (rsel : RegSel) (bs : BitVec 3) (f1 f2 : BitVec 4) (t l : Bool) (next : PageOffset)  -- ALU.BUS_AND_T, R127
  | aluBusXorT (rsel : RegSel) (bs : BitVec 3) (f1 f2 : BitVec 4) (t l : Bool) (next : PageOffset)  -- ALU.BUS_XOR_T, R128
  | aluBusPlus1 (rsel : RegSel) (bs : BitVec 3) (f1 f2 : BitVec 4) (t l : Bool) (next : PageOffset)  -- ALU.BUS_PLUS_1, R129
  | aluBusMinus1 (rsel : RegSel) (bs : BitVec 3) (f1 f2 : BitVec 4) (t l : Bool) (next : PageOffset)  -- ALU.BUS_MINUS_1, R130
  | aluBusPlusT (rsel : RegSel) (bs : BitVec 3) (f1 f2 : BitVec 4) (t l : Bool) (next : PageOffset)  -- ALU.BUS_PLUS_T, R131
  | aluBusMinusT (rsel : RegSel) (bs : BitVec 3) (f1 f2 : BitVec 4) (t l : Bool) (next : PageOffset)  -- ALU.BUS_MINUS_T, R132
  | aluBusMinusTMinus1 (rsel : RegSel) (bs : BitVec 3) (f1 f2 : BitVec 4) (t l : Bool) (next : PageOffset)  -- ALU.BUS_MINUS_T_MINUS_1, R133
  | aluBusPlusTPlus1 (rsel : RegSel) (bs : BitVec 3) (f1 f2 : BitVec 4) (t l : Bool) (next : PageOffset)  -- ALU.BUS_PLUS_T_PLUS_1, R134
  | aluBusPlusSkip (rsel : RegSel) (bs : BitVec 3) (f1 f2 : BitVec 4) (t l : Bool) (next : PageOffset)  -- ALU.BUS_PLUS_SKIP, R135
  | aluBusDotT (rsel : RegSel) (bs : BitVec 3) (f1 f2 : BitVec 4) (t l : Bool) (next : PageOffset)  -- ALU.BUS_DOT_T, R136
  | aluBusAndNotT (rsel : RegSel) (bs : BitVec 3) (f1 f2 : BitVec 4) (t l : Bool) (next : PageOffset)  -- ALU.BUS_AND_NOT_T, R137
  | aluUndef016 (rsel : RegSel) (bs : BitVec 3) (f1 f2 : BitVec 4) (t l : Bool) (next : PageOffset)  -- ALU.UNDEF_016, R138
  | aluUndef017 (rsel : RegSel) (bs : BitVec 3) (f1 f2 : BitVec 4) (t l : Bool) (next : PageOffset)  -- ALU.UNDEF_017, R139
  | bs0 (rsel : RegSel) (aluf f1 f2 : BitVec 4) (t l : Bool) (next : PageOffset)  -- BS.0, R151
  | bs1 (rsel : RegSel) (aluf f1 f2 : BitVec 4) (t l : Bool) (next : PageOffset)  -- BS.1, R151
  | bs2 (rsel : RegSel) (aluf f1 f2 : BitVec 4) (t l : Bool) (next : PageOffset)  -- BS.2, R151
  | bs3 (rsel : RegSel) (aluf f1 f2 : BitVec 4) (t l : Bool) (next : PageOffset)  -- BS.3, R151
  | bs4 (rsel : RegSel) (aluf f1 f2 : BitVec 4) (t l : Bool) (next : PageOffset)  -- BS.4, R158
  | bs5 (rsel : RegSel) (aluf f1 f2 : BitVec 4) (t l : Bool) (next : PageOffset)  -- BS.5, R158
  | bs6 (rsel : RegSel) (aluf f1 f2 : BitVec 4) (t l : Bool) (next : PageOffset)  -- BS.6, R158
  | bs7 (rsel : RegSel) (aluf f1 f2 : BitVec 4) (t l : Bool) (next : PageOffset)  -- BS.7, R158
  | f1Code0 (rsel : RegSel) (aluf : BitVec 4) (bs : BitVec 3) (f2 : BitVec 4) (t l : Bool) (next : PageOffset)  -- F1.0, R151
  | f1Code1 (rsel : RegSel) (aluf : BitVec 4) (bs : BitVec 3) (f2 : BitVec 4) (t l : Bool) (next : PageOffset)  -- F1.1, R151
  | f1Task (rsel : RegSel) (aluf : BitVec 4) (bs : BitVec 3) (f2 : BitVec 4) (t l : Bool) (next : PageOffset)  -- F1.TASK, R171
  | f1Code3 (rsel : RegSel) (aluf : BitVec 4) (bs : BitVec 3) (f2 : BitVec 4) (t l : Bool) (next : PageOffset)  -- F1.3, R151
  | f1Code4 (rsel : RegSel) (aluf : BitVec 4) (bs : BitVec 3) (f2 : BitVec 4) (t l : Bool) (next : PageOffset)  -- F1.4, R151
  | f1Code5 (rsel : RegSel) (aluf : BitVec 4) (bs : BitVec 3) (f2 : BitVec 4) (t l : Bool) (next : PageOffset)  -- F1.5, R151
  | f1Code6 (rsel : RegSel) (aluf : BitVec 4) (bs : BitVec 3) (f2 : BitVec 4) (t l : Bool) (next : PageOffset)  -- F1.6, R151
  | f1Const (rsel : RegSel) (aluf : BitVec 4) (bs : BitVec 3) (f2 : BitVec 4) (t l : Bool) (next : PageOffset)  -- F1.CONST, R158
  | f1Code10 (rsel : RegSel) (aluf : BitVec 4) (bs : BitVec 3) (f2 : BitVec 4) (t l : Bool) (next : PageOffset)  -- F1.10, R151
  | f1Wrtram (rsel : RegSel) (aluf : BitVec 4) (bs : BitVec 3) (f2 : BitVec 4) (t l : Bool) (next : PageOffset)  -- F1.WRTRAM, R108
  | f1Rdram (rsel : RegSel) (aluf : BitVec 4) (bs : BitVec 3) (f2 : BitVec 4) (t l : Bool) (next : PageOffset)  -- F1.RDRAM, R107
  | f1Code13 (rsel : RegSel) (aluf : BitVec 4) (bs : BitVec 3) (f2 : BitVec 4) (t l : Bool) (next : PageOffset)  -- F1.13, R151
  | f1Code14 (rsel : RegSel) (aluf : BitVec 4) (bs : BitVec 3) (f2 : BitVec 4) (t l : Bool) (next : PageOffset)  -- F1.14, R151
  | f1Code15 (rsel : RegSel) (aluf : BitVec 4) (bs : BitVec 3) (f2 : BitVec 4) (t l : Bool) (next : PageOffset)  -- F1.15, R151
  | f1Code16 (rsel : RegSel) (aluf : BitVec 4) (bs : BitVec 3) (f2 : BitVec 4) (t l : Bool) (next : PageOffset)  -- F1.16, R151
  | f1Code17 (rsel : RegSel) (aluf : BitVec 4) (bs : BitVec 3) (f2 : BitVec 4) (t l : Bool) (next : PageOffset)  -- F1.17, R151
  | f2Code0 (rsel : RegSel) (aluf : BitVec 4) (bs : BitVec 3) (f1 : BitVec 4) (t l : Bool) (next : PageOffset)  -- F2.0, R151
  | f2Code1 (rsel : RegSel) (aluf : BitVec 4) (bs : BitVec 3) (f1 : BitVec 4) (t l : Bool) (next : PageOffset)  -- F2.1, R151
  | f2Code2 (rsel : RegSel) (aluf : BitVec 4) (bs : BitVec 3) (f1 : BitVec 4) (t l : Bool) (next : PageOffset)  -- F2.2, R151
  | f2Code3 (rsel : RegSel) (aluf : BitVec 4) (bs : BitVec 3) (f1 : BitVec 4) (t l : Bool) (next : PageOffset)  -- F2.3, R151
  | f2Code4 (rsel : RegSel) (aluf : BitVec 4) (bs : BitVec 3) (f1 : BitVec 4) (t l : Bool) (next : PageOffset)  -- F2.4, R151
  | f2Code5 (rsel : RegSel) (aluf : BitVec 4) (bs : BitVec 3) (f1 : BitVec 4) (t l : Bool) (next : PageOffset)  -- F2.5, R151
  | f2Code6 (rsel : RegSel) (aluf : BitVec 4) (bs : BitVec 3) (f1 : BitVec 4) (t l : Bool) (next : PageOffset)  -- F2.6, R151
  | f2Const (rsel : RegSel) (aluf : BitVec 4) (bs : BitVec 3) (f1 : BitVec 4) (t l : Bool) (next : PageOffset)  -- F2.CONST, R158
  | f2Code10 (rsel : RegSel) (aluf : BitVec 4) (bs : BitVec 3) (f1 : BitVec 4) (t l : Bool) (next : PageOffset)  -- F2.10, R151
  | f2Code11 (rsel : RegSel) (aluf : BitVec 4) (bs : BitVec 3) (f1 : BitVec 4) (t l : Bool) (next : PageOffset)  -- F2.11, R151
  | f2Code12 (rsel : RegSel) (aluf : BitVec 4) (bs : BitVec 3) (f1 : BitVec 4) (t l : Bool) (next : PageOffset)  -- F2.12, R151
  | f2Code13 (rsel : RegSel) (aluf : BitVec 4) (bs : BitVec 3) (f1 : BitVec 4) (t l : Bool) (next : PageOffset)  -- F2.13, R151
  | f2Code14 (rsel : RegSel) (aluf : BitVec 4) (bs : BitVec 3) (f1 : BitVec 4) (t l : Bool) (next : PageOffset)  -- F2.14, R151
  | f2Code15 (rsel : RegSel) (aluf : BitVec 4) (bs : BitVec 3) (f1 : BitVec 4) (t l : Bool) (next : PageOffset)  -- F2.15, R151
  | f2Code16 (rsel : RegSel) (aluf : BitVec 4) (bs : BitVec 3) (f1 : BitVec 4) (t l : Bool) (next : PageOffset)  -- F2.16, R151
  | f2Code17 (rsel : RegSel) (aluf : BitVec 4) (bs : BitVec 3) (f1 : BitVec 4) (t l : Bool) (next : PageOffset)  -- F2.17, R151
  | loadT (rsel : RegSel) (aluf : BitVec 4) (bs : BitVec 3) (f1 f2 : BitVec 4) (l : Bool) (next : PageOffset)  -- LOAD_T, R200
  | loadL (rsel : RegSel) (aluf : BitVec 4) (bs : BitVec 3) (f1 f2 : BitVec 4) (t : Bool) (next : PageOffset)  -- LOAD_L, R199
deriving DecidableEq, Repr

end Sys2Proof
end

