-- ==== Sys2Proof/Decode.lean ====
section
/-! DEFINITION. Decoding and encoding (spec/30_encoding.md R80, R81): the fields of a word, the row that names a
word (log entry 5), and the encoder. Decoding is total: no word is illegal as such (R90). -/

namespace Sys2Proof

/-- The field `w[lo + n - 1 : lo]` of a word (R10). -/
def wordField (w : MicroWord) (lo n : Nat) : BitVec n := w.extractLsb' lo n

/-- The eight fields of a word, cut out by the layout of R80. -/
def decodeMicro (w : MicroWord) : Micro where
  rsel := wordField w 27 5
  aluf := wordField w 23 4
  bs := wordField w 20 3
  f1 := wordField w 16 4
  f2 := wordField w 12 4
  t := w.getLsbD 11
  l := w.getLsbD 10
  next := wordField w 0 10

/-- A field put at its place in a word (R10: `zext_32(v) << lo`). -/
def placeField {n : Nat} (v : BitVec n) (lo : Nat) : MicroWord := v.setWidth 32 <<< lo

/-- The word with given fields (R80). -/
def microWord (m : Micro) : MicroWord :=
  placeField m.rsel 27 ||| placeField m.aluf 23 ||| placeField m.bs 20 ||| placeField m.f1 16 |||
  placeField m.f2 12 ||| placeField (BitVec.ofBool m.t) 11 ||| placeField (BitVec.ofBool m.l) 10 |||
  placeField m.next 0

/-- The families of the opcode table's rows. -/
inductive RowFamily where
  | alu
  | bs
  | f1
  | f2
  | loadT
  | loadL
deriving DecidableEq, Repr

/-- Which family's row names a word (DESIGN CHOICE, log entry 5): the one code that stands out from the other
three; where all four codes agree, T or L if set; else the ALU row, since the ALU acts in every microcycle. -/
def namingFamily (m : Micro) : RowFamily :=
  let a := m.aluf.toNat
  let b := m.bs.toNat
  let c := m.f1.toNat
  let d := m.f2.toNat
  if a = b ∧ b = c ∧ c = d then
    if m.t then .loadT else if m.l then .loadL else .alu
  else if b = c ∧ c = d then .alu
  else if a = c ∧ c = d then .bs
  else if a = b ∧ b = d then .f1
  else if a = b ∧ b = c then .f2
  else .alu

/-- The row of the ALUF field's code. -/
def nameByAlu (m : Micro) : Instr :=
  match m.aluf.toNat with
  | 0 => .aluBus m.rsel m.bs m.f1 m.f2 m.t m.l m.next
  | 1 => .aluT m.rsel m.bs m.f1 m.f2 m.t m.l m.next
  | 2 => .aluBusOrT m.rsel m.bs m.f1 m.f2 m.t m.l m.next
  | 3 => .aluBusAndT m.rsel m.bs m.f1 m.f2 m.t m.l m.next
  | 4 => .aluBusXorT m.rsel m.bs m.f1 m.f2 m.t m.l m.next
  | 5 => .aluBusPlus1 m.rsel m.bs m.f1 m.f2 m.t m.l m.next
  | 6 => .aluBusMinus1 m.rsel m.bs m.f1 m.f2 m.t m.l m.next
  | 7 => .aluBusPlusT m.rsel m.bs m.f1 m.f2 m.t m.l m.next
  | 8 => .aluBusMinusT m.rsel m.bs m.f1 m.f2 m.t m.l m.next
  | 9 => .aluBusMinusTMinus1 m.rsel m.bs m.f1 m.f2 m.t m.l m.next
  | 10 => .aluBusPlusTPlus1 m.rsel m.bs m.f1 m.f2 m.t m.l m.next
  | 11 => .aluBusPlusSkip m.rsel m.bs m.f1 m.f2 m.t m.l m.next
  | 12 => .aluBusDotT m.rsel m.bs m.f1 m.f2 m.t m.l m.next
  | 13 => .aluBusAndNotT m.rsel m.bs m.f1 m.f2 m.t m.l m.next
  | 14 => .aluUndef016 m.rsel m.bs m.f1 m.f2 m.t m.l m.next
  | _ => .aluUndef017 m.rsel m.bs m.f1 m.f2 m.t m.l m.next

/-- The row of the BS field's code. -/
def nameByBs (m : Micro) : Instr :=
  match m.bs.toNat with
  | 0 => .bs0 m.rsel m.aluf m.f1 m.f2 m.t m.l m.next
  | 1 => .bs1 m.rsel m.aluf m.f1 m.f2 m.t m.l m.next
  | 2 => .bs2 m.rsel m.aluf m.f1 m.f2 m.t m.l m.next
  | 3 => .bs3 m.rsel m.aluf m.f1 m.f2 m.t m.l m.next
  | 4 => .bs4 m.rsel m.aluf m.f1 m.f2 m.t m.l m.next
  | 5 => .bs5 m.rsel m.aluf m.f1 m.f2 m.t m.l m.next
  | 6 => .bs6 m.rsel m.aluf m.f1 m.f2 m.t m.l m.next
  | _ => .bs7 m.rsel m.aluf m.f1 m.f2 m.t m.l m.next

/-- The row of the F1 field's code. -/
def nameByF1 (m : Micro) : Instr :=
  match m.f1.toNat with
  | 0 => .f1Code0 m.rsel m.aluf m.bs m.f2 m.t m.l m.next
  | 1 => .f1Code1 m.rsel m.aluf m.bs m.f2 m.t m.l m.next
  | 2 => .f1Task m.rsel m.aluf m.bs m.f2 m.t m.l m.next
  | 3 => .f1Code3 m.rsel m.aluf m.bs m.f2 m.t m.l m.next
  | 4 => .f1Code4 m.rsel m.aluf m.bs m.f2 m.t m.l m.next
  | 5 => .f1Code5 m.rsel m.aluf m.bs m.f2 m.t m.l m.next
  | 6 => .f1Code6 m.rsel m.aluf m.bs m.f2 m.t m.l m.next
  | 7 => .f1Const m.rsel m.aluf m.bs m.f2 m.t m.l m.next
  | 8 => .f1Code10 m.rsel m.aluf m.bs m.f2 m.t m.l m.next
  | 9 => .f1Wrtram m.rsel m.aluf m.bs m.f2 m.t m.l m.next
  | 10 => .f1Rdram m.rsel m.aluf m.bs m.f2 m.t m.l m.next
  | 11 => .f1Code13 m.rsel m.aluf m.bs m.f2 m.t m.l m.next
  | 12 => .f1Code14 m.rsel m.aluf m.bs m.f2 m.t m.l m.next
  | 13 => .f1Code15 m.rsel m.aluf m.bs m.f2 m.t m.l m.next
  | 14 => .f1Code16 m.rsel m.aluf m.bs m.f2 m.t m.l m.next
  | _ => .f1Code17 m.rsel m.aluf m.bs m.f2 m.t m.l m.next

/-- The row of the F2 field's code. -/
def nameByF2 (m : Micro) : Instr :=
  match m.f2.toNat with
  | 0 => .f2Code0 m.rsel m.aluf m.bs m.f1 m.t m.l m.next
  | 1 => .f2Code1 m.rsel m.aluf m.bs m.f1 m.t m.l m.next
  | 2 => .f2Code2 m.rsel m.aluf m.bs m.f1 m.t m.l m.next
  | 3 => .f2Code3 m.rsel m.aluf m.bs m.f1 m.t m.l m.next
  | 4 => .f2Code4 m.rsel m.aluf m.bs m.f1 m.t m.l m.next
  | 5 => .f2Code5 m.rsel m.aluf m.bs m.f1 m.t m.l m.next
  | 6 => .f2Code6 m.rsel m.aluf m.bs m.f1 m.t m.l m.next
  | 7 => .f2Const m.rsel m.aluf m.bs m.f1 m.t m.l m.next
  | 8 => .f2Code10 m.rsel m.aluf m.bs m.f1 m.t m.l m.next
  | 9 => .f2Code11 m.rsel m.aluf m.bs m.f1 m.t m.l m.next
  | 10 => .f2Code12 m.rsel m.aluf m.bs m.f1 m.t m.l m.next
  | 11 => .f2Code13 m.rsel m.aluf m.bs m.f1 m.t m.l m.next
  | 12 => .f2Code14 m.rsel m.aluf m.bs m.f1 m.t m.l m.next
  | 13 => .f2Code15 m.rsel m.aluf m.bs m.f1 m.t m.l m.next
  | 14 => .f2Code16 m.rsel m.aluf m.bs m.f1 m.t m.l m.next
  | _ => .f2Code17 m.rsel m.aluf m.bs m.f1 m.t m.l m.next

/-- The instruction a microinstruction is decoded to: the row that names it. -/
def nameMicro (m : Micro) : Instr :=
  match namingFamily m with
  | .alu => nameByAlu m
  | .bs => nameByBs m
  | .f1 => nameByF1 m
  | .f2 => nameByF2 m
  | .loadT => .loadT m.rsel m.aluf m.bs m.f1 m.f2 m.l m.next
  | .loadL => .loadL m.rsel m.aluf m.bs m.f1 m.f2 m.t m.next

/-- Decode of a fetched word (R81: total). -/
def decode (w : MicroWord) : Instr := nameMicro (decodeMicro w)

/-- The fields of an instruction: its row's code and its operands (spec/opcode_table.json). -/
def microOf : Instr → Micro
  | .aluBus rsel bs f1 f2 t l next => ⟨rsel, 0, bs, f1, f2, t, l, next⟩
  | .aluT rsel bs f1 f2 t l next => ⟨rsel, 1, bs, f1, f2, t, l, next⟩
  | .aluBusOrT rsel bs f1 f2 t l next => ⟨rsel, 2, bs, f1, f2, t, l, next⟩
  | .aluBusAndT rsel bs f1 f2 t l next => ⟨rsel, 3, bs, f1, f2, t, l, next⟩
  | .aluBusXorT rsel bs f1 f2 t l next => ⟨rsel, 4, bs, f1, f2, t, l, next⟩
  | .aluBusPlus1 rsel bs f1 f2 t l next => ⟨rsel, 5, bs, f1, f2, t, l, next⟩
  | .aluBusMinus1 rsel bs f1 f2 t l next => ⟨rsel, 6, bs, f1, f2, t, l, next⟩
  | .aluBusPlusT rsel bs f1 f2 t l next => ⟨rsel, 7, bs, f1, f2, t, l, next⟩
  | .aluBusMinusT rsel bs f1 f2 t l next => ⟨rsel, 8, bs, f1, f2, t, l, next⟩
  | .aluBusMinusTMinus1 rsel bs f1 f2 t l next => ⟨rsel, 9, bs, f1, f2, t, l, next⟩
  | .aluBusPlusTPlus1 rsel bs f1 f2 t l next => ⟨rsel, 10, bs, f1, f2, t, l, next⟩
  | .aluBusPlusSkip rsel bs f1 f2 t l next => ⟨rsel, 11, bs, f1, f2, t, l, next⟩
  | .aluBusDotT rsel bs f1 f2 t l next => ⟨rsel, 12, bs, f1, f2, t, l, next⟩
  | .aluBusAndNotT rsel bs f1 f2 t l next => ⟨rsel, 13, bs, f1, f2, t, l, next⟩
  | .aluUndef016 rsel bs f1 f2 t l next => ⟨rsel, 14, bs, f1, f2, t, l, next⟩
  | .aluUndef017 rsel bs f1 f2 t l next => ⟨rsel, 15, bs, f1, f2, t, l, next⟩
  | .bs0 rsel aluf f1 f2 t l next => ⟨rsel, aluf, 0, f1, f2, t, l, next⟩
  | .bs1 rsel aluf f1 f2 t l next => ⟨rsel, aluf, 1, f1, f2, t, l, next⟩
  | .bs2 rsel aluf f1 f2 t l next => ⟨rsel, aluf, 2, f1, f2, t, l, next⟩
  | .bs3 rsel aluf f1 f2 t l next => ⟨rsel, aluf, 3, f1, f2, t, l, next⟩
  | .bs4 rsel aluf f1 f2 t l next => ⟨rsel, aluf, 4, f1, f2, t, l, next⟩
  | .bs5 rsel aluf f1 f2 t l next => ⟨rsel, aluf, 5, f1, f2, t, l, next⟩
  | .bs6 rsel aluf f1 f2 t l next => ⟨rsel, aluf, 6, f1, f2, t, l, next⟩
  | .bs7 rsel aluf f1 f2 t l next => ⟨rsel, aluf, 7, f1, f2, t, l, next⟩
  | .f1Code0 rsel aluf bs f2 t l next => ⟨rsel, aluf, bs, 0, f2, t, l, next⟩
  | .f1Code1 rsel aluf bs f2 t l next => ⟨rsel, aluf, bs, 1, f2, t, l, next⟩
  | .f1Task rsel aluf bs f2 t l next => ⟨rsel, aluf, bs, 2, f2, t, l, next⟩
  | .f1Code3 rsel aluf bs f2 t l next => ⟨rsel, aluf, bs, 3, f2, t, l, next⟩
  | .f1Code4 rsel aluf bs f2 t l next => ⟨rsel, aluf, bs, 4, f2, t, l, next⟩
  | .f1Code5 rsel aluf bs f2 t l next => ⟨rsel, aluf, bs, 5, f2, t, l, next⟩
  | .f1Code6 rsel aluf bs f2 t l next => ⟨rsel, aluf, bs, 6, f2, t, l, next⟩
  | .f1Const rsel aluf bs f2 t l next => ⟨rsel, aluf, bs, 7, f2, t, l, next⟩
  | .f1Code10 rsel aluf bs f2 t l next => ⟨rsel, aluf, bs, 8, f2, t, l, next⟩
  | .f1Wrtram rsel aluf bs f2 t l next => ⟨rsel, aluf, bs, 9, f2, t, l, next⟩
  | .f1Rdram rsel aluf bs f2 t l next => ⟨rsel, aluf, bs, 10, f2, t, l, next⟩
  | .f1Code13 rsel aluf bs f2 t l next => ⟨rsel, aluf, bs, 11, f2, t, l, next⟩
  | .f1Code14 rsel aluf bs f2 t l next => ⟨rsel, aluf, bs, 12, f2, t, l, next⟩
  | .f1Code15 rsel aluf bs f2 t l next => ⟨rsel, aluf, bs, 13, f2, t, l, next⟩
  | .f1Code16 rsel aluf bs f2 t l next => ⟨rsel, aluf, bs, 14, f2, t, l, next⟩
  | .f1Code17 rsel aluf bs f2 t l next => ⟨rsel, aluf, bs, 15, f2, t, l, next⟩
  | .f2Code0 rsel aluf bs f1 t l next => ⟨rsel, aluf, bs, f1, 0, t, l, next⟩
  | .f2Code1 rsel aluf bs f1 t l next => ⟨rsel, aluf, bs, f1, 1, t, l, next⟩
  | .f2Code2 rsel aluf bs f1 t l next => ⟨rsel, aluf, bs, f1, 2, t, l, next⟩
  | .f2Code3 rsel aluf bs f1 t l next => ⟨rsel, aluf, bs, f1, 3, t, l, next⟩
  | .f2Code4 rsel aluf bs f1 t l next => ⟨rsel, aluf, bs, f1, 4, t, l, next⟩
  | .f2Code5 rsel aluf bs f1 t l next => ⟨rsel, aluf, bs, f1, 5, t, l, next⟩
  | .f2Code6 rsel aluf bs f1 t l next => ⟨rsel, aluf, bs, f1, 6, t, l, next⟩
  | .f2Const rsel aluf bs f1 t l next => ⟨rsel, aluf, bs, f1, 7, t, l, next⟩
  | .f2Code10 rsel aluf bs f1 t l next => ⟨rsel, aluf, bs, f1, 8, t, l, next⟩
  | .f2Code11 rsel aluf bs f1 t l next => ⟨rsel, aluf, bs, f1, 9, t, l, next⟩
  | .f2Code12 rsel aluf bs f1 t l next => ⟨rsel, aluf, bs, f1, 10, t, l, next⟩
  | .f2Code13 rsel aluf bs f1 t l next => ⟨rsel, aluf, bs, f1, 11, t, l, next⟩
  | .f2Code14 rsel aluf bs f1 t l next => ⟨rsel, aluf, bs, f1, 12, t, l, next⟩
  | .f2Code15 rsel aluf bs f1 t l next => ⟨rsel, aluf, bs, f1, 13, t, l, next⟩
  | .f2Code16 rsel aluf bs f1 t l next => ⟨rsel, aluf, bs, f1, 14, t, l, next⟩
  | .f2Code17 rsel aluf bs f1 t l next => ⟨rsel, aluf, bs, f1, 15, t, l, next⟩
  | .loadT rsel aluf bs f1 f2 l next => ⟨rsel, aluf, bs, f1, f2, true, l, next⟩
  | .loadL rsel aluf bs f1 f2 t next => ⟨rsel, aluf, bs, f1, f2, t, true, next⟩

/-- The word of an instruction. -/
def encode (i : Instr) : MicroWord := microWord (microOf i)

/-- The host's view of the decoder: the instruction whose bits are `w`, in at most 32 bits (R91: one length). -/
def decodeTableWord (nbits w : Nat) : Option Instr :=
  if nbits ≤ 32 then some (decode (BitVec.ofNat 32 (w % 2 ^ nbits))) else none

end Sys2Proof
end

