-- ==== Sys2Proof/WellFormed.lean ====
section
/-! DEFINITION. Well-formedness: of a configuration (spec/70_reset_and_hazards.md R264, spec/30_encoding.md R89, spec/42_dispatch.md
R155), which the launch checks, and of an instruction, whose operands are of exact width by their types, so that what is left
to check is that its row is the one the decoder names its word by (log entry 5). -/

namespace Sys2Proof

/-- A configuration the model accepts (R264). -/
def Config.wellFormed (c : Config) : Bool :=
  Machine.countsOk c && Machine.resetMpcOk c && Machine.f1CodesOk c && Machine.bsRegistrationsOk c &&
  Machine.f1RegistrationsOk c && Machine.f2RegistrationsOk c && Machine.constRomOk c && Machine.handlersOk c

/-- The family of an instruction's row. -/
def rowFamily : Instr → RowFamily
  | .aluBus .. => .alu
  | .aluT .. => .alu
  | .aluBusOrT .. => .alu
  | .aluBusAndT .. => .alu
  | .aluBusXorT .. => .alu
  | .aluBusPlus1 .. => .alu
  | .aluBusMinus1 .. => .alu
  | .aluBusPlusT .. => .alu
  | .aluBusMinusT .. => .alu
  | .aluBusMinusTMinus1 .. => .alu
  | .aluBusPlusTPlus1 .. => .alu
  | .aluBusPlusSkip .. => .alu
  | .aluBusDotT .. => .alu
  | .aluBusAndNotT .. => .alu
  | .aluUndef016 .. => .alu
  | .aluUndef017 .. => .alu
  | .bs0 .. => .bs
  | .bs1 .. => .bs
  | .bs2 .. => .bs
  | .bs3 .. => .bs
  | .bs4 .. => .bs
  | .bs5 .. => .bs
  | .bs6 .. => .bs
  | .bs7 .. => .bs
  | .f1Code0 .. => .f1
  | .f1Code1 .. => .f1
  | .f1Task .. => .f1
  | .f1Code3 .. => .f1
  | .f1Code4 .. => .f1
  | .f1Code5 .. => .f1
  | .f1Code6 .. => .f1
  | .f1Const .. => .f1
  | .f1Code10 .. => .f1
  | .f1Wrtram .. => .f1
  | .f1Rdram .. => .f1
  | .f1Code13 .. => .f1
  | .f1Code14 .. => .f1
  | .f1Code15 .. => .f1
  | .f1Code16 .. => .f1
  | .f1Code17 .. => .f1
  | .f2Code0 .. => .f2
  | .f2Code1 .. => .f2
  | .f2Code2 .. => .f2
  | .f2Code3 .. => .f2
  | .f2Code4 .. => .f2
  | .f2Code5 .. => .f2
  | .f2Code6 .. => .f2
  | .f2Const .. => .f2
  | .f2Code10 .. => .f2
  | .f2Code11 .. => .f2
  | .f2Code12 .. => .f2
  | .f2Code13 .. => .f2
  | .f2Code14 .. => .f2
  | .f2Code15 .. => .f2
  | .f2Code16 .. => .f2
  | .f2Code17 .. => .f2
  | .loadT .. => .loadT
  | .loadL .. => .loadL

/-- The instruction's row is the one that names its word. -/
def Instr.wellFormed (i : Instr) : Bool := decide (namingFamily (microOf i) = rowFamily i)

end Sys2Proof
end

