-- ==== Sys2Proof/Machine/Ops.lean ====
section
/-! DEFINITION. The shared operations over registers, stores, the log and the fatal state, and the task switch that is this
hardware's exception entry and return (spec/60_exceptions.md R240 to R253). -/

namespace Sys2Proof.Machine

/-! ### The context -/

/-- The context of R20 with the configuration it is run with: the state with the model's own three fields, which no rule
of the spec names, put back to what reset gives them (log entry 4). All that a collaborator sees, and all that later execution
depends on (R12, R52, R207). -/
def contextOf (s : State) : State := { s with hostCalls := [], budget := 0, reply := none }

/-! ### The fatal state and the log -/

/-- Run an operation unless the hardware is in the fatal state: a fatal call ends the microcycle at once, and no
rule moves the fatal state (R47, R202, R240). -/
def unlessFatal (f : State → State) (s : State) : State := if s.fatal.isSome then s else f s

/-- The diagnostic of a fault of a kind: task, micro-PC and time as they stand (R241). -/
def fatalInfo (kind : FatalKind) (reason : String) (s : State) : FatalInfo :=
  { kind := kind, task := s.curTask, mpc := s.mpc, field := none, phase := none, code := none,
    now := s.now, reason := reason }

/-- The diagnostic of a fault at a dispatch slot (R242: task, mpc, field, phase, code). R241 gives `reason` a text for collaborator
faults and says nothing of it here: the model puts the empty string (DESIGN CHOICE, log entry 16). -/
def slotFatalInfo (kind : FatalKind) (field : Field) (phase : Phase) (code : Nat) (s : State) : FatalInfo :=
  { fatalInfo kind "" s with field := some field, phase := some phase, code := some code }

/-- Enter the fatal state (R240). It is applied to the context before the failing call. -/
def raiseFatal (info : FatalInfo) (s : State) : State := { s with fatal := some info }

/-- Append an anomaly to the log, and change nothing else (R244). -/
def logReport (report : AnomalyReport) (s : State) : State :=
  { s with log := s.log ++ [{ report := report, task := s.curTask, mpc := s.mpc, now := s.now }] }

/-- The numeric code of a fatal kind (R242). -/
def FatalKind.number : FatalKind → Nat
  | .undefinedSlot => 1
  | .noTaskRequesting => 2
  | .collaboratorFatal => 3
  | .reentrantExecute => 4

/-- The numeric code of an anomaly's kind (R245). -/
def AnomalyReport.number : AnomalyReport → Nat
  | .rdramOutOfRange _ => 1
  | .undefinedAluFunction _ => 2
  | .wrtramIgnored _ => 3
  | .collaboratorAnomaly _ => 4

/-! ### Register files (R66) -/

/-- `R[i]`. -/
def readR (s : State) (i : RegSel) : Word := s.r[i.toNat]

/-- `R[i] <- v`. -/
def writeR (i : RegSel) (v : Word) (s : State) : State := { s with r := s.r.set i.toNat v }

/-- `S[bank][i]`; a bank that does not exist reads as a free value (log entry 14). -/
def readS (s : State) (bank : Nat) (i : RegSel) : Word :=
  match s.sBanks[bank]? with
  | some regs => regs[i.toNat]
  | none => Config.absentBank bank i

/-- `S[bank][i] <- v`; a bank that does not exist holds nothing to write (log entry 14). -/
def writeS (bank : Nat) (i : RegSel) (v : Word) (s : State) : State :=
  { s with sBanks := s.sBanks.modify bank fun regs => regs.set i.toNat v }

/-! ### The microcode store and the constant ROM -/

/-- The number of words of `U` (R60). -/
def storeWords (c : Config) : Nat := c.pages * pageWords

/-- `UcRead(a)` (R62). -/
def ucRead (s : State) (a : Nat) : MicroWord := Memory.read s.store a

/-- `UcWrite(a, v)` (R63). -/
def ucWrite (a : Nat) (v : MicroWord) (s : State) : State := { s with store := Memory.write s.store a v }

/-- `ConstRead(a)` (R64). -/
def constRead (c : Config) (a : Nat) : Word := Memory.read c.constRom a

/-! ### The wakeup bitmask -/

/-- One bit of `WAKEUP` (R39). -/
def requests (w : Word) (task : Task) : Bool := w.getLsbD task.val

/-- The bitmask with only one task's bit. -/
def taskBit (task : Task) : Word := BitVec.ofNat 16 (2 ^ task.val)

/-- The tasks from the highest number down. -/
def tasksDown : List Task := [15, 14, 13, 12, 11, 10, 9, 8, 7, 6, 5, 4, 3, 2, 1, 0]

/-- The highest-numbered requesting task (R172). -/
def highestRequester (w : Word) : Option Task := tasksDown.find? (requests w)

/-- The three states of a task, derived from the context (R49). -/
inductive TaskStatus where
  | idle
  | requesting
  | active
deriving DecidableEq, Repr

/-- The state of a task (R49). -/
def taskStatus (s : State) (task : Task) : TaskStatus :=
  if task = s.curTask then .active else if requests s.wakeup task then .requesting else .idle

/-! ### The task switch: entry and return in one (R175, R252, R253) -/

/-- Save the running task's micro-PC and modifier (R175). -/
def saveTask (s : State) : State :=
  { s with
    tmpc := s.tmpc.set s.curTask.val s.nextPc
    tnext2 := s.tnext2.set s.curTask.val s.next2 }

/-- Give the datapath to a task: its saved micro-PC and modifier become the current ones (R175). -/
def restoreTask (task : Task) (s : State) : State :=
  { s with
    curTask := task
    nextPc := s.tmpc[task.val]
    next2 := s.tnext2[task.val] }

/-- The committed switch, without the activate callback (R252). -/
def switchTo (task : Task) (s : State) : State := restoreTask task (saveTask s)

end Sys2Proof.Machine
end

