-- ==== Sys2Proof/Machine/Flags.lean ====
section
/-! DEFINITION. The ALU (spec/41_alu.md): the carry logic, the functions of the codes, the T-source flag, and the outcome of
every code. A pure function of bus, T, code and carry-in (R120). -/

namespace Sys2Proof.Machine

/-- The 17-bit sum of arithmetic mode (R123). -/
def aluSum (a y : Word) (c : Bool) : BitVec 17 :=
  a.setWidth 17 + y.setWidth 17 + (if c then 1#17 else 0#17)

/-- The result of a sum: bits 15..0 (R123). -/
def sumResult (x : BitVec 17) : Word := x.setWidth 16

/-- The carry of a sum: bit 16, true for a carry out of bit 15 (R123). -/
def sumCarry (x : BitVec 17) : Bool := x.getLsbD 16

/-- A bitwise function given by its truth table. -/
def bitwise (f : BitFn) (a b : Word) : Word :=
  (if f.both then a &&& b else 0#16) ||| (if f.busOnly then a &&& ~~~b else 0#16) |||
    (if f.tOnly then ~~~a &&& b else 0#16) ||| (if f.neither then ~~~a &&& ~~~b else 0#16)

/-- The second summand and the carry-in of an arithmetic code (R129 to R135; a function outside R84 has the form of R123, log
entry 22); none in logic mode (R122). -/
def arithmeticInputs (fn : AluFn) (a b : Word) (carryIn : Bool) : Option (Word × Bool) :=
  match fn with
  | .busPlus1 => some (0x0000#16, true)
  | .busMinus1 => some (0xFFFF#16, false)
  | .busPlusT => some (b, false)
  | .busMinusT => some (~~~b, true)
  | .busMinusTMinus1 => some (~~~b, false)
  | .busPlusTPlus1 => some (b, true)
  | .busPlusSkip => some (0x0000#16, carryIn)
  | .otherSum y c => some (bitwise y a b, c)
  | .bus | .t | .busOrT | .busAndT | .busXorT | .busDotT | .busAndNotT | .otherLogic _ => none

/-- The bitwise function of a logic code (R124 to R128, R136, R137). -/
def logicResult (fn : AluFn) (a b : Word) : Word :=
  match fn with
  | .t => b
  | .busOrT => a ||| b
  | .busAndT | .busDotT => a &&& b
  | .busXorT => a ^^^ b
  | .busAndNotT => a &&& ~~~b
  | .otherLogic f => bitwise f a b
  | .bus | .busPlus1 | .busMinus1 | .busPlusT | .busMinusT | .busMinusTMinus1 | .busPlusTPlus1 | .busPlusSkip
  | .otherSum _ _ => a

/-- The result and carry of a defined function (R122, R123). -/
def aluFunction (c : Config) (fn : AluFn) (a b : Word) (carryIn : Bool) : Word × Bool :=
  match arithmeticInputs fn a b carryIn with
  | some (y, cin) => (sumResult (aluSum a y cin), sumCarry (aluSum a y cin))
  | none => (logicResult fn a b, c.logicCarry)

/-- The outcome of an undefined code (R138, R139); its `tsel` depends on the code alone (R121). -/
def undefOutcome (c : Config) (code : BitVec 4) (a b : Word) : AluOutcome :=
  match c.undefAlu with
  | .busAndZero carry => { result := a &&& 0#16, carryOut := carry, tsel := false }
  | .external =>
    let fc := Config.undefAluResult code a b
    { result := fc.1, carryOut := fc.2, tsel := Config.undefAluTsel code }

/-- The code of BUS+SKIP, 013 (R135, R140). -/
def skipCode : BitVec 4 := 11#4

/-- The carry-in a code sees: `carry_in` at code 013, and false at every other, whose outcome R140 makes independent of it,
whatever function the table holds there (log entry 22). -/
def carryInOf (code : BitVec 4) (carryIn : Bool) : Bool := carryIn && code == skipCode

/-- `alu(bus, t, aluf, carry_in)` (R120): codes 00 to 015 by the table, 016 and 017 by `UNDEF_ALU`. Code 013 alone depends on
the carry-in (R140). -/
def alu (c : Config) (bus t : Word) (code : BitVec 4) (carryIn : Bool) : AluOutcome :=
  if h : code.toNat < 14 then
    let fc := aluFunction c c.aluTable[code.toNat] bus t (carryInOf code carryIn)
    { result := fc.1, carryOut := fc.2, tsel := c.tsel[code.toNat] }
  else undefOutcome c code bus t

/-- Whether an ALU code is one of the two undefined ones (R138, R139). -/
def isUndefinedCode (code : BitVec 4) : Bool := decide (14 ≤ code.toNat)

/-- Store the ALU's outputs (R120). -/
def latchAlu (out : AluOutcome) (s : State) : State :=
  { s with alu := out.result, aluc0 := out.carryOut, tself := out.tsel }

/-- The ALU evaluation of step 6 (R120): an undefined code is also logged. -/
def aluStep (code : BitVec 4) (s : State) : State :=
  let s' := latchAlu (alu s.cfg s.bus s.t code s.skip) s
  if isUndefinedCode code then logReport (.undefinedAluFunction code) s' else s'

/-- The L commit of step 8 (R199): L, LALUC0 and, for a RAM-related task, M. -/
def commitL (enable : Bool) (s : State) : State :=
  if enable then
    { s with
      l := s.alu
      laluc0 := s.aluc0
      m := if isRamTask s.cfg s.curTask then s.alu else s.m }
  else s

/-- The T commit of step 8 (R200): from the ALU or from the bus, as TSELF says. -/
def commitT (enable : Bool) (s : State) : State :=
  if enable then { s with t := if s.tself then s.alu else s.bus } else s

end Sys2Proof.Machine
end

