-- ==== Sys2Proof/Machine/Timer.lean ====
section
/-! DEFINITION. The operations of the discrete-event timer queue that handlers may call, and the one that only reads
(spec/45_timer.md R215 to R221). Firing an event calls a handler, so it stands in Machine/Slice.lean. -/

namespace Sys2Proof.Machine

/-- The queue with an event put after every event that fires no later (R216, R217). -/
def enqueue (queue : List Event) (e : Event) : List Event :=
  (queue.filter fun q => decide (q.time ≤ e.time)) ++ [e] ++ (queue.filter fun q => decide (e.time < q.time))

/-- Whether an insert cuts the running slice short (R218). -/
def leavesSlice (s : State) (time : Nat) : Bool := s.inSlice && decide (time ≤ s.sliceEnd)

/-- `insert(delay, callback, arg, name)` (R217); the id it returns is `NEXT_ID` before it. -/
def insertEvent (delay : Nat) (callback : Nat) (arg : Int) (name : String) (s : State) : State :=
  let e : Event := { id := s.nextId, time := s.now + delay, callback := callback, arg := arg, name := name }
  { s with
    nextId := s.nextId + 1
    queue := enqueue s.queue e
    leave := s.leave || leavesSlice s e.time }

/-- Whether an event with a given id is queued: what `remove` returns (R219). -/
def isQueued (s : State) (id : Nat) : Bool := s.queue.any fun e => decide (e.id = id)

/-- `remove(id)` (R219): it does not touch `LEAVE`. -/
def removeEvent (id : Nat) (s : State) : State :=
  { s with queue := s.queue.filter fun e => decide (e.id ≠ id) }

/-- `time_until_next()` (R221): natural-number subtraction gives 0 for an event already due. -/
def timeUntilNext (s : State) : Option Nat := s.queue.head?.map fun e => e.time - s.now

end Sys2Proof.Machine
end

