-- ==== Sys2Proof/Machine/Handlers.lean ====
section
/-! DEFINITION. Calling a collaborator (spec/42_dispatch.md R150): what a described handler's operands, guards and writes
mean, and the call itself, whose fatal outcome discards the callee's writes (spec/60_exceptions.md R240). -/

namespace Sys2Proof

/-- What a collaborator that the launch does not describe does when it is called: the lines it runs, a free value of
the collaborator, the timer argument (absent outside a timer callback) and the whole context (R12, R150, log entry 6). It is
applied to `contextOf` of a state alone. -/
opaque Config.collaborator (id : Nat) (arg : Option Int) (s : Machine.State) : List ScriptLine

/-- The answer of a stall predicate that the launch does not describe (R162): a free value of the context, applied to
`contextOf` of a state alone. -/
opaque Config.stallAnswer (id : Nat) (s : Machine.State) : Bool

namespace Machine

/-- The value of an operand in a context. -/
def evalOperand (s : State) : Operand → Word
  | .imm v => v
  | .bus => s.bus
  | .t => s.t
  | .l => s.l
  | .m => s.m
  | .alu => s.alu
  | .r => readR s s.rsel
  | .rAt i => readR s i
  | .s bank => readS s bank s.rsel
  | .sAt bank i => readS s bank i
  | .wakeup => s.wakeup

/-- Whether a guard holds in a context. -/
def evalGuard (s : State) : Guard → Bool
  | .always => true
  | .isZero o => evalOperand s o == 0#16
  | .nonZero o => evalOperand s o != 0#16
  | .bitSet o n => (evalOperand s o).getLsbD n
  | .carry => s.aluc0
  | .lCarry => s.laluc0
  | .skip => s.skip
  | .nowBelow ns => decide (s.now < ns)

/-- `BUS <- BUS & v`, the bus convention (R157). -/
def driveBus (v : Word) (s : State) : State := { s with bus := s.bus &&& v }

/-- A write of the handler contract (R150). -/
def applyAction (s : State) : Action → State
  | .driveBus o => driveBus (evalOperand s o) s
  | .setBus o => { s with bus := evalOperand s o }
  | .setR o => writeR s.rsel (evalOperand s o) s
  | .setRAt i o => writeR i (evalOperand s o) s
  | .setS bank o => writeS bank s.rsel (evalOperand s o) s
  | .setSAt bank i o => writeS bank i (evalOperand s o) s
  | .setT o => { s with t := evalOperand s o }
  | .setL o => { s with l := evalOperand s o }
  | .setM o => { s with m := evalOperand s o }
  | .setRsel o => { s with rsel := (evalOperand s o).setWidth 5 }
  | .setSkip b => { s with skip := b }
  | .setWakeup o => { s with wakeup := evalOperand s o }
  | .wake task => { s with wakeup := s.wakeup ||| taskBit task }
  | .unwake task => { s with wakeup := s.wakeup &&& ~~~(taskBit task) }
  | .setBankSel task n => { s with bankSel := s.bankSel.set task.val n }
  | .orNext2 o => { s with next2 := s.next2 ||| (evalOperand s o).setWidth 10 }
  | .logAnomaly text => logReport (.collaboratorAnomaly text) s
  | .insert delay callback arg name => insertEvent delay callback arg name s
  | .remove id => removeEvent id s

/-- Run the lines of a handler in order: the context they leave, or the kind and reason of its fatal outcome. The reason of the
forbidden call of `execute` is the empty string (DESIGN CHOICE, log entry 16). -/
def runLines : List ScriptLine → State → Except (FatalKind × String) State
  | [], s => .ok s
  | ln :: rest, s =>
    if evalGuard s ln.guard then
      match ln.effect with
      | .act a => runLines rest (applyAction s a)
      | .fail reason => .error (.collaboratorFatal, reason)
      | .callExecute => .error (.reentrantExecute, "")
    else runLines rest s

/-- The lines a handler runs in a context. -/
def handlerLines (h : Handler) (arg : Option Int) (s : State) : List ScriptLine :=
  match h with
  | .script lines => lines
  | .external id => Config.collaborator id arg (contextOf s)

/-- `call H` (R10, R150): the context H returns, or the context before the call in the fatal state. -/
def callHandler (h : Handler) (arg : Option Int) (s : State) : State :=
  match runLines (handlerLines h arg s) s with
  | .ok s' => s'
  | .error (kind, reason) => raiseFatal (fatalInfo kind reason s) s

/-- Whether `STALL` holds after a fetch (R162, R195). -/
def isStalled (s : State) : Bool :=
  match s.cfg.stall with
  | .never => false
  | .whenever g => evalGuard s g
  | .external id => Config.stallAnswer id (contextOf s)

end Machine

end Sys2Proof
end

