-- ==== Sys2Proof/Machine/Operands.lean ====
section
/-! DEFINITION. Where a microinstruction's operand values come from (spec/30_encoding.md R82): the constant path, the control
RAM address, and the RDRAM and WRTRAM effects (spec/40_microcode_store.md R105, R106, R109, spec/42_dispatch.md
R158). -/

namespace Sys2Proof.Machine

/-- Whether a microinstruction enables the constant path (R158). -/
def usesConstant (c : Config) (m : Micro) : Bool :=
  decide (4 ≤ m.bs.toNat ∨ m.f1 = c.f1Const ∨ m.f2 = c.f2Const)

/-- The constant ROM address of a microinstruction, from the decoded RSEL (R158). -/
def constAddress (m : Micro) : Nat := m.rsel.toNat * 8 + m.bs.toNat

/-- The constant path of step 5 (R158). -/
def constantPath (m : Micro) (s : State) : State :=
  if usesConstant s.cfg m then driveBus (constRead s.cfg (constAddress m)) s else s

/-- The number whose bits, from the least significant up, stand at the given positions of a word. -/
def bitsAt (positions : List (Fin 16)) (a : Word) : Nat :=
  match positions with
  | [] => 0
  | p :: rest => (a.getLsbD p.val).toNat + 2 * bitsAt rest a

/-- The word offset in `CRAM_ADDR` (R105). -/
def cramWord (y : CramLayout) (a : Word) : PageOffset := BitVec.ofNat 10 (bitsAt y.wordBits.toList a)

/-- The half-select bit of `CRAM_ADDR` (R105): set for bits 31..16. -/
def cramHalf (y : CramLayout) (a : Word) : Bool := a.getLsbD y.halfBit.val

/-- The ROM/RAM bit of `CRAM_ADDR` (R105): set for a ROM page. -/
def cramIsRom (y : CramLayout) (a : Word) : Bool := a.getLsbD y.romBit.val

/-- The page number in `CRAM_ADDR`, within ROM or within RAM (R105). -/
def cramBank (y : CramLayout) (a : Word) : Nat := bitsAt y.bankBits a

/-- `target(CRAM_ADDR)` (R105): the index in `U`, if the page exists. -/
def cramTarget (c : Config) (a : Word) : Option Nat :=
  let y := c.cramLayout
  let word := (cramWord y a).toNat
  let bank := cramBank y a
  if cramIsRom y a = false ∧ bank < c.ramPages then some ((c.romPages + bank) * pageWords + word)
  else if cramIsRom y a = true ∧ bank < c.romPages then some (bank * pageWords + word)
  else none

/-- Where WRTRAM stores: a target in a RAM page (R109). -/
def wrtramTarget (c : Config) (a : Word) : Option Nat :=
  if cramIsRom c.cramLayout a then none else cramTarget c a

/-- One half of a 32-bit word (R106). -/
def halfOf (high : Bool) (w : MicroWord) : Word :=
  if high then w.extractLsb' 16 16 else w.extractLsb' 0 16

/-- What RDRAM reads at an index of `U`: the word with the inversion undone, one half of it (R106). -/
def rdramData (s : State) (a : Nat) : Word :=
  halfOf (cramHalf s.cfg.cramLayout s.cramAddr) (ucRead s a ^^^ s.cfg.ucInv)

/-- The RDRAM effect of step 5 (R106). -/
def rdramEffect (s : State) : State :=
  if s.rdramPend then
    match cramTarget s.cfg s.cramAddr with
    | some a => { driveBus (rdramData s a) s with rdramPend := false }
    | none => { logReport (.rdramOutOfRange s.cramAddr) s with rdramPend := false }
  else s

/-- The word WRTRAM stores: L, not yet updated, over this cycle's ALU, under the inversion mask (R109). -/
def wrtramData (s : State) : MicroWord := (s.l ++ s.alu) ^^^ s.cfg.ucInv

/-- The WRTRAM effect of step 6 (R109). -/
def wrtramEffect (s : State) : State :=
  if s.wrtramPend then
    match wrtramTarget s.cfg s.cramAddr with
    | some a => { ucWrite a (wrtramData s) s with wrtramPend := false }
    | none => { logReport (.wrtramIgnored s.cramAddr) s with wrtramPend := false }
  else s

end Sys2Proof.Machine
end

