-- ==== Sys2Proof/Machine/Engine.lean ====
section
/-! DEFINITION. Steps 3 to 9 of a microcycle for one decoded microinstruction (spec/44_engine.md R191, R194 to R201): the slots of
the phase dispatcher in their fixed order (spec/42_dispatch.md R153), TASK (spec/43_scheduler.md R171), and the switch of step
9 (R175). -/

namespace Sys2Proof.Machine

/-! ### The core-owned F1 functions -/

/-- TASK (R171): phase 0 samples the wakeup bitmask, phase 1 has no effect. -/
def taskFunction (phase : Phase) (s : State) : State :=
  match phase with
  | .late => s
  | .early =>
    match highestRequester s.wakeup with
    | none => raiseFatal (slotFatalInfo .noTaskRequesting .f1 .early f1Task.toNat s) s
    | some task => { s with nnTask := task }

/-- The flag cycle of RDRAM (R107). -/
def flagRdram (s : State) : State := { s with rdramPend := true, cramAddr := s.alu }

/-- The flag cycle of WRTRAM (R108). -/
def flagWrtram (s : State) : State := { s with wrtramPend := true, cramAddr := s.alu }

/-! ### The dispatcher -/

/-- Call what a slot holds (R151, R152, R155). -/
def runSlot (fn : SlotFn) (field : Field) (phase : Phase) (code : Nat) (s : State) : State :=
  match fn with
  | .taskFunction => taskFunction phase s
  | .flagRdram => flagRdram s
  | .flagWrtram => flagWrtram s
  | .noEffect => s
  | .registered h => callHandler h none s
  | .stub => raiseFatal (slotFatalInfo .undefinedSlot field phase code s) s

/-- `call FN_BS[phase][CURTASK][code]`, unless an earlier call was fatal (R154). -/
def callBs (phase : Phase) (code : BitVec 3) : State → State :=
  unlessFatal fun s => runSlot (bsSlot s.cfg phase s.curTask code) .bs phase code.toNat s

/-- `call FN_F1[phase][CURTASK][code]`. -/
def callF1 (phase : Phase) (code : BitVec 4) : State → State :=
  unlessFatal fun s => runSlot (f1Slot s.cfg phase s.curTask code) .f1 phase code.toNat s

/-- `call FN_F2[phase][CURTASK][code]`. -/
def callF2 (phase : Phase) (code : BitVec 4) : State → State :=
  unlessFatal fun s => runSlot (f2Slot s.cfg phase s.curTask code) .f2 phase code.toNat s

/-! ### The steps -/

/-- Step 3, decode: the fetched word into MIR and its register select into RSEL (R101). -/
def loadMir (m : Micro) (s : State) : State := { s with mir := microWord m, rsel := m.rsel }

/-- The advance after the stall check (R102). -/
def advance (next : PageOffset) (s : State) : State :=
  { s with nextPc := { page := s.mpc.page, offset := next }, next2 := 0#10 }

/-- Step 5 before the handlers: the bus driven to all ones, the constant path, RDRAM data (R196). -/
def formBus (m : Micro) (s : State) : State := rdramEffect (constantPath m { s with bus := 0xFFFF#16 })

/-- Step 5, the early phase: F2, BS, F1 (R153, R196). -/
def earlyPhase (m : Micro) (s : State) : State := callF1 .early m.f1 (callBs .early m.bs (callF2 .early m.f2 s))

/-- Step 6: the ALU, then the WRTRAM commit (R197). -/
def aluAndWrtram (m : Micro) : State → State := unlessFatal fun s => wrtramEffect (aluStep m.aluf s)

/-- Step 7, the late phase: BS, F1, F2 (R153, R198). -/
def latePhase (m : Micro) (s : State) : State := callF2 .late m.f2 (callF1 .late m.f1 (callBs .late m.bs s))

/-- Step 8: the L and T commits (R199, R200). -/
def commit (m : Micro) : State → State := unlessFatal fun s => commitT m.t (commitL m.l s)

/-- `call ACTIVATE[CURTASK]`, if one is registered (R160, R176). -/
def callActivate (s : State) : State :=
  match activateOf s.cfg s.curTask with
  | some h => callHandler h none s
  | none => s

/-- Step 9: the candidate becomes the next task, or the switch commits (R175). -/
def resolveSwitch : State → State := unlessFatal fun s =>
  if s.curTask = s.nextTask then { s with nextTask := s.nnTask }
  else callActivate (switchTo s.nextTask s)

/-- Steps 5 to 9 (R191). -/
def executeSteps (m : Micro) (s : State) : State :=
  resolveSwitch (commit m (latePhase m (aluAndWrtram m (earlyPhase m (formBus m s)))))

/-- A microinstruction from decode on: a stalled one is left to be issued again (R195), another advances the
micro-PC and runs steps 5 to 9. The fatal state runs nothing (R240, log entry 18). -/
def runMicro (m : Micro) : State → State := unlessFatal fun s =>
  if isStalled (loadMir m s) then loadMir m s else executeSteps m (advance m.next (loadMir m s))

/-- The outcome of a microinstruction: always a next state, since a fatal fault is a state too (R240). -/
def runInstruction (m : Micro) (s : State) : Host.Outcome State Fault Refusal := .next (runMicro m s)

end Sys2Proof.Machine
end

