-- ==== Sys2Proof/Machine/AluRows.lean ====
section
/-! DEFINITION. The meanings of the ALU.* rows (spec/41_alu.md): each row is a complete microinstruction with
its own code in its own field (log entry 5), run by `runInstruction`. -/

namespace Sys2Proof.Machine

/-- ALU.BUS. R124: F = BUS. -/
def execAluBus (rsel : RegSel) (bs : BitVec 3) (f1 f2 : BitVec 4) (t l : Bool) (next : PageOffset) (s : State) :
    Host.Outcome State Fault Refusal :=
  runInstruction ⟨rsel, 0#4, bs, f1, f2, t, l, next⟩ s

/-- ALU.T. R125: F = T. -/
def execAluT (rsel : RegSel) (bs : BitVec 3) (f1 f2 : BitVec 4) (t l : Bool) (next : PageOffset) (s : State) :
    Host.Outcome State Fault Refusal :=
  runInstruction ⟨rsel, 1#4, bs, f1, f2, t, l, next⟩ s

/-- ALU.BUS_OR_T. R126: F = BUS | T. -/
def execAluBusOrT (rsel : RegSel) (bs : BitVec 3) (f1 f2 : BitVec 4) (t l : Bool) (next : PageOffset) (s : State) :
    Host.Outcome State Fault Refusal :=
  runInstruction ⟨rsel, 2#4, bs, f1, f2, t, l, next⟩ s

/-- ALU.BUS_AND_T. R127: F = BUS & T. -/
def execAluBusAndT (rsel : RegSel) (bs : BitVec 3) (f1 f2 : BitVec 4) (t l : Bool) (next : PageOffset) (s : State) :
    Host.Outcome State Fault Refusal :=
  runInstruction ⟨rsel, 3#4, bs, f1, f2, t, l, next⟩ s

/-- ALU.BUS_XOR_T. R128: F = BUS ^ T. -/
def execAluBusXorT (rsel : RegSel) (bs : BitVec 3) (f1 f2 : BitVec 4) (t l : Bool) (next : PageOffset) (s : State) :
    Host.Outcome State Fault Refusal :=
  runInstruction ⟨rsel, 4#4, bs, f1, f2, t, l, next⟩ s

/-- ALU.BUS_PLUS_1. R129: F = BUS + 1. -/
def execAluBusPlus1 (rsel : RegSel) (bs : BitVec 3) (f1 f2 : BitVec 4) (t l : Bool) (next : PageOffset) (s : State) :
    Host.Outcome State Fault Refusal :=
  runInstruction ⟨rsel, 5#4, bs, f1, f2, t, l, next⟩ s

/-- ALU.BUS_MINUS_1. R130: F = BUS - 1. -/
def execAluBusMinus1 (rsel : RegSel) (bs : BitVec 3) (f1 f2 : BitVec 4) (t l : Bool) (next : PageOffset) (s : State) :
    Host.Outcome State Fault Refusal :=
  runInstruction ⟨rsel, 6#4, bs, f1, f2, t, l, next⟩ s

/-- ALU.BUS_PLUS_T. R131: F = BUS + T. -/
def execAluBusPlusT (rsel : RegSel) (bs : BitVec 3) (f1 f2 : BitVec 4) (t l : Bool) (next : PageOffset) (s : State) :
    Host.Outcome State Fault Refusal :=
  runInstruction ⟨rsel, 7#4, bs, f1, f2, t, l, next⟩ s

/-- ALU.BUS_MINUS_T. R132: F = BUS - T. -/
def execAluBusMinusT (rsel : RegSel) (bs : BitVec 3) (f1 f2 : BitVec 4) (t l : Bool) (next : PageOffset) (s : State) :
    Host.Outcome State Fault Refusal :=
  runInstruction ⟨rsel, 8#4, bs, f1, f2, t, l, next⟩ s

/-- ALU.BUS_MINUS_T_MINUS_1. R133: F = BUS - T - 1. -/
def execAluBusMinusTMinus1 (rsel : RegSel) (bs : BitVec 3) (f1 f2 : BitVec 4) (t l : Bool) (next : PageOffset) (s : State) :
    Host.Outcome State Fault Refusal :=
  runInstruction ⟨rsel, 9#4, bs, f1, f2, t, l, next⟩ s

/-- ALU.BUS_PLUS_T_PLUS_1. R134: F = BUS + T + 1. -/
def execAluBusPlusTPlus1 (rsel : RegSel) (bs : BitVec 3) (f1 f2 : BitVec 4) (t l : Bool) (next : PageOffset) (s : State) :
    Host.Outcome State Fault Refusal :=
  runInstruction ⟨rsel, 10#4, bs, f1, f2, t, l, next⟩ s

/-- ALU.BUS_PLUS_SKIP. R135: F = BUS + SKIP. -/
def execAluBusPlusSkip (rsel : RegSel) (bs : BitVec 3) (f1 f2 : BitVec 4) (t l : Bool) (next : PageOffset) (s : State) :
    Host.Outcome State Fault Refusal :=
  runInstruction ⟨rsel, 11#4, bs, f1, f2, t, l, next⟩ s

/-- ALU.BUS_DOT_T. R136: F = BUS & T, with T from the ALU. -/
def execAluBusDotT (rsel : RegSel) (bs : BitVec 3) (f1 f2 : BitVec 4) (t l : Bool) (next : PageOffset) (s : State) :
    Host.Outcome State Fault Refusal :=
  runInstruction ⟨rsel, 12#4, bs, f1, f2, t, l, next⟩ s

/-- ALU.BUS_AND_NOT_T. R137: F = BUS & ~T. -/
def execAluBusAndNotT (rsel : RegSel) (bs : BitVec 3) (f1 f2 : BitVec 4) (t l : Bool) (next : PageOffset) (s : State) :
    Host.Outcome State Fault Refusal :=
  runInstruction ⟨rsel, 13#4, bs, f1, f2, t, l, next⟩ s

/-- ALU.UNDEF_016. R138: UNDEF_ALU, logged. -/
def execAluUndef016 (rsel : RegSel) (bs : BitVec 3) (f1 f2 : BitVec 4) (t l : Bool) (next : PageOffset) (s : State) :
    Host.Outcome State Fault Refusal :=
  runInstruction ⟨rsel, 14#4, bs, f1, f2, t, l, next⟩ s

/-- ALU.UNDEF_017. R139: UNDEF_ALU, logged. -/
def execAluUndef017 (rsel : RegSel) (bs : BitVec 3) (f1 f2 : BitVec 4) (t l : Bool) (next : PageOffset) (s : State) :
    Host.Outcome State Fault Refusal :=
  runInstruction ⟨rsel, 15#4, bs, f1, f2, t, l, next⟩ s

end Sys2Proof.Machine
end

