-- ==== Sys2Proof/Machine/BsRows.lean ====
section
/-! DEFINITION. The meanings of the BS.* rows (spec/42_dispatch.md R151, R158): each row is a complete microinstruction with
its own code in its own field (log entry 5), run by `runInstruction`. -/

namespace Sys2Proof.Machine

/-- BS.0. R151: BS 0 calls the task's own handlers. -/
def execBs0 (rsel : RegSel) (aluf f1 f2 : BitVec 4) (t l : Bool) (next : PageOffset) (s : State) :
    Host.Outcome State Fault Refusal :=
  runInstruction ⟨rsel, aluf, 0#3, f1, f2, t, l, next⟩ s

/-- BS.1. R151: BS 1 calls the task's own handlers. -/
def execBs1 (rsel : RegSel) (aluf f1 f2 : BitVec 4) (t l : Bool) (next : PageOffset) (s : State) :
    Host.Outcome State Fault Refusal :=
  runInstruction ⟨rsel, aluf, 1#3, f1, f2, t, l, next⟩ s

/-- BS.2. R151: BS 2 calls the task's own handlers. -/
def execBs2 (rsel : RegSel) (aluf f1 f2 : BitVec 4) (t l : Bool) (next : PageOffset) (s : State) :
    Host.Outcome State Fault Refusal :=
  runInstruction ⟨rsel, aluf, 2#3, f1, f2, t, l, next⟩ s

/-- BS.3. R151: BS 3 calls the task's own handlers. -/
def execBs3 (rsel : RegSel) (aluf f1 f2 : BitVec 4) (t l : Bool) (next : PageOffset) (s : State) :
    Host.Outcome State Fault Refusal :=
  runInstruction ⟨rsel, aluf, 3#3, f1, f2, t, l, next⟩ s

/-- BS.4. R158: ANDs the constant into the bus; R151: BS 4 calls the task's own handlers. -/
def execBs4 (rsel : RegSel) (aluf f1 f2 : BitVec 4) (t l : Bool) (next : PageOffset) (s : State) :
    Host.Outcome State Fault Refusal :=
  runInstruction ⟨rsel, aluf, 4#3, f1, f2, t, l, next⟩ s

/-- BS.5. R158: ANDs the constant into the bus; R151: BS 5 calls the task's own handlers. -/
def execBs5 (rsel : RegSel) (aluf f1 f2 : BitVec 4) (t l : Bool) (next : PageOffset) (s : State) :
    Host.Outcome State Fault Refusal :=
  runInstruction ⟨rsel, aluf, 5#3, f1, f2, t, l, next⟩ s

/-- BS.6. R158: ANDs the constant into the bus; R151: BS 6 calls the task's own handlers. -/
def execBs6 (rsel : RegSel) (aluf f1 f2 : BitVec 4) (t l : Bool) (next : PageOffset) (s : State) :
    Host.Outcome State Fault Refusal :=
  runInstruction ⟨rsel, aluf, 6#3, f1, f2, t, l, next⟩ s

/-- BS.7. R158: ANDs the constant into the bus; R151: BS 7 calls the task's own handlers. -/
def execBs7 (rsel : RegSel) (aluf f1 f2 : BitVec 4) (t l : Bool) (next : PageOffset) (s : State) :
    Host.Outcome State Fault Refusal :=
  runInstruction ⟨rsel, aluf, 7#3, f1, f2, t, l, next⟩ s

end Sys2Proof.Machine
end

