-- ==== Sys2Proof/Machine/F1Rows.lean ====
section
/-! DEFINITION. The meanings of the F1.* rows (spec/42_dispatch.md R151, R155): each row is a complete microinstruction with
its own code in its own field (log entry 5), run by `runInstruction`. -/

namespace Sys2Proof.Machine

/-- F1.0. R151: F1 code 0 (0 octal) calls the task's own handlers. -/
def execF1Code0 (rsel : RegSel) (aluf : BitVec 4) (bs : BitVec 3) (f2 : BitVec 4) (t l : Bool) (next : PageOffset) (s : State) :
    Host.Outcome State Fault Refusal :=
  runInstruction ⟨rsel, aluf, bs, 0#4, f2, t, l, next⟩ s

/-- F1.1. R151: F1 code 1 (1 octal) calls the task's own handlers. -/
def execF1Code1 (rsel : RegSel) (aluf : BitVec 4) (bs : BitVec 3) (f2 : BitVec 4) (t l : Bool) (next : PageOffset) (s : State) :
    Host.Outcome State Fault Refusal :=
  runInstruction ⟨rsel, aluf, bs, 1#4, f2, t, l, next⟩ s

/-- F1.TASK. R171: TASK samples the wakeup bitmask into NNTASK. -/
def execF1Task (rsel : RegSel) (aluf : BitVec 4) (bs : BitVec 3) (f2 : BitVec 4) (t l : Bool) (next : PageOffset) (s : State) :
    Host.Outcome State Fault Refusal :=
  runInstruction ⟨rsel, aluf, bs, 2#4, f2, t, l, next⟩ s

/-- F1.3. R151: F1 code 3 (3 octal) calls the task's own handlers. -/
def execF1Code3 (rsel : RegSel) (aluf : BitVec 4) (bs : BitVec 3) (f2 : BitVec 4) (t l : Bool) (next : PageOffset) (s : State) :
    Host.Outcome State Fault Refusal :=
  runInstruction ⟨rsel, aluf, bs, 3#4, f2, t, l, next⟩ s

/-- F1.4. R151: F1 code 4 (4 octal) calls the task's own handlers. -/
def execF1Code4 (rsel : RegSel) (aluf : BitVec 4) (bs : BitVec 3) (f2 : BitVec 4) (t l : Bool) (next : PageOffset) (s : State) :
    Host.Outcome State Fault Refusal :=
  runInstruction ⟨rsel, aluf, bs, 4#4, f2, t, l, next⟩ s

/-- F1.5. R151: F1 code 5 (5 octal) calls the task's own handlers. -/
def execF1Code5 (rsel : RegSel) (aluf : BitVec 4) (bs : BitVec 3) (f2 : BitVec 4) (t l : Bool) (next : PageOffset) (s : State) :
    Host.Outcome State Fault Refusal :=
  runInstruction ⟨rsel, aluf, bs, 5#4, f2, t, l, next⟩ s

/-- F1.6. R151: F1 code 6 (6 octal) calls the task's own handlers. -/
def execF1Code6 (rsel : RegSel) (aluf : BitVec 4) (bs : BitVec 3) (f2 : BitVec 4) (t l : Bool) (next : PageOffset) (s : State) :
    Host.Outcome State Fault Refusal :=
  runInstruction ⟨rsel, aluf, bs, 6#4, f2, t, l, next⟩ s

/-- F1.CONST. R158: the constant path, where F1_CONST is this code. -/
def execF1Const (rsel : RegSel) (aluf : BitVec 4) (bs : BitVec 3) (f2 : BitVec 4) (t l : Bool) (next : PageOffset) (s : State) :
    Host.Outcome State Fault Refusal :=
  runInstruction ⟨rsel, aluf, bs, 7#4, f2, t, l, next⟩ s

/-- F1.10. R151: F1 code 8 (10 octal) calls the task's own handlers. -/
def execF1Code10 (rsel : RegSel) (aluf : BitVec 4) (bs : BitVec 3) (f2 : BitVec 4) (t l : Bool) (next : PageOffset) (s : State) :
    Host.Outcome State Fault Refusal :=
  runInstruction ⟨rsel, aluf, bs, 8#4, f2, t, l, next⟩ s

/-- F1.WRTRAM. R108: flags WRTRAM, in the tasks of RAM_TASKS. -/
def execF1Wrtram (rsel : RegSel) (aluf : BitVec 4) (bs : BitVec 3) (f2 : BitVec 4) (t l : Bool) (next : PageOffset) (s : State) :
    Host.Outcome State Fault Refusal :=
  runInstruction ⟨rsel, aluf, bs, 9#4, f2, t, l, next⟩ s

/-- F1.RDRAM. R107: flags RDRAM, in the tasks of RAM_TASKS. -/
def execF1Rdram (rsel : RegSel) (aluf : BitVec 4) (bs : BitVec 3) (f2 : BitVec 4) (t l : Bool) (next : PageOffset) (s : State) :
    Host.Outcome State Fault Refusal :=
  runInstruction ⟨rsel, aluf, bs, 10#4, f2, t, l, next⟩ s

/-- F1.13. R151: F1 code 11 (13 octal) calls the task's own handlers. -/
def execF1Code13 (rsel : RegSel) (aluf : BitVec 4) (bs : BitVec 3) (f2 : BitVec 4) (t l : Bool) (next : PageOffset) (s : State) :
    Host.Outcome State Fault Refusal :=
  runInstruction ⟨rsel, aluf, bs, 11#4, f2, t, l, next⟩ s

/-- F1.14. R151: F1 code 12 (14 octal) calls the task's own handlers. -/
def execF1Code14 (rsel : RegSel) (aluf : BitVec 4) (bs : BitVec 3) (f2 : BitVec 4) (t l : Bool) (next : PageOffset) (s : State) :
    Host.Outcome State Fault Refusal :=
  runInstruction ⟨rsel, aluf, bs, 12#4, f2, t, l, next⟩ s

/-- F1.15. R151: F1 code 13 (15 octal) calls the task's own handlers. -/
def execF1Code15 (rsel : RegSel) (aluf : BitVec 4) (bs : BitVec 3) (f2 : BitVec 4) (t l : Bool) (next : PageOffset) (s : State) :
    Host.Outcome State Fault Refusal :=
  runInstruction ⟨rsel, aluf, bs, 13#4, f2, t, l, next⟩ s

/-- F1.16. R151: F1 code 14 (16 octal) calls the task's own handlers. -/
def execF1Code16 (rsel : RegSel) (aluf : BitVec 4) (bs : BitVec 3) (f2 : BitVec 4) (t l : Bool) (next : PageOffset) (s : State) :
    Host.Outcome State Fault Refusal :=
  runInstruction ⟨rsel, aluf, bs, 14#4, f2, t, l, next⟩ s

/-- F1.17. R151: F1 code 15 (17 octal) calls the task's own handlers. -/
def execF1Code17 (rsel : RegSel) (aluf : BitVec 4) (bs : BitVec 3) (f2 : BitVec 4) (t l : Bool) (next : PageOffset) (s : State) :
    Host.Outcome State Fault Refusal :=
  runInstruction ⟨rsel, aluf, bs, 15#4, f2, t, l, next⟩ s

end Sys2Proof.Machine
end

