-- ==== Sys2Proof/Machine/F2Rows.lean ====
section
/-! DEFINITION. The meanings of the F2.* rows (spec/42_dispatch.md R151, R158): each row is a complete microinstruction with
its own code in its own field (log entry 5), run by `runInstruction`. -/

namespace Sys2Proof.Machine

/-- F2.0. R151: F2 code 0 (0 octal) calls the task's own handlers. -/
def execF2Code0 (rsel : RegSel) (aluf : BitVec 4) (bs : BitVec 3) (f1 : BitVec 4) (t l : Bool) (next : PageOffset) (s : State) :
    Host.Outcome State Fault Refusal :=
  runInstruction ⟨rsel, aluf, bs, f1, 0#4, t, l, next⟩ s

/-- F2.1. R151: F2 code 1 (1 octal) calls the task's own handlers. -/
def execF2Code1 (rsel : RegSel) (aluf : BitVec 4) (bs : BitVec 3) (f1 : BitVec 4) (t l : Bool) (next : PageOffset) (s : State) :
    Host.Outcome State Fault Refusal :=
  runInstruction ⟨rsel, aluf, bs, f1, 1#4, t, l, next⟩ s

/-- F2.2. R151: F2 code 2 (2 octal) calls the task's own handlers. -/
def execF2Code2 (rsel : RegSel) (aluf : BitVec 4) (bs : BitVec 3) (f1 : BitVec 4) (t l : Bool) (next : PageOffset) (s : State) :
    Host.Outcome State Fault Refusal :=
  runInstruction ⟨rsel, aluf, bs, f1, 2#4, t, l, next⟩ s

/-- F2.3. R151: F2 code 3 (3 octal) calls the task's own handlers. -/
def execF2Code3 (rsel : RegSel) (aluf : BitVec 4) (bs : BitVec 3) (f1 : BitVec 4) (t l : Bool) (next : PageOffset) (s : State) :
    Host.Outcome State Fault Refusal :=
  runInstruction ⟨rsel, aluf, bs, f1, 3#4, t, l, next⟩ s

/-- F2.4. R151: F2 code 4 (4 octal) calls the task's own handlers. -/
def execF2Code4 (rsel : RegSel) (aluf : BitVec 4) (bs : BitVec 3) (f1 : BitVec 4) (t l : Bool) (next : PageOffset) (s : State) :
    Host.Outcome State Fault Refusal :=
  runInstruction ⟨rsel, aluf, bs, f1, 4#4, t, l, next⟩ s

/-- F2.5. R151: F2 code 5 (5 octal) calls the task's own handlers. -/
def execF2Code5 (rsel : RegSel) (aluf : BitVec 4) (bs : BitVec 3) (f1 : BitVec 4) (t l : Bool) (next : PageOffset) (s : State) :
    Host.Outcome State Fault Refusal :=
  runInstruction ⟨rsel, aluf, bs, f1, 5#4, t, l, next⟩ s

/-- F2.6. R151: F2 code 6 (6 octal) calls the task's own handlers. -/
def execF2Code6 (rsel : RegSel) (aluf : BitVec 4) (bs : BitVec 3) (f1 : BitVec 4) (t l : Bool) (next : PageOffset) (s : State) :
    Host.Outcome State Fault Refusal :=
  runInstruction ⟨rsel, aluf, bs, f1, 6#4, t, l, next⟩ s

/-- F2.CONST. R158: the constant path, where F2_CONST is this code. -/
def execF2Const (rsel : RegSel) (aluf : BitVec 4) (bs : BitVec 3) (f1 : BitVec 4) (t l : Bool) (next : PageOffset) (s : State) :
    Host.Outcome State Fault Refusal :=
  runInstruction ⟨rsel, aluf, bs, f1, 7#4, t, l, next⟩ s

/-- F2.10. R151: F2 code 8 (10 octal) calls the task's own handlers. -/
def execF2Code10 (rsel : RegSel) (aluf : BitVec 4) (bs : BitVec 3) (f1 : BitVec 4) (t l : Bool) (next : PageOffset) (s : State) :
    Host.Outcome State Fault Refusal :=
  runInstruction ⟨rsel, aluf, bs, f1, 8#4, t, l, next⟩ s

/-- F2.11. R151: F2 code 9 (11 octal) calls the task's own handlers. -/
def execF2Code11 (rsel : RegSel) (aluf : BitVec 4) (bs : BitVec 3) (f1 : BitVec 4) (t l : Bool) (next : PageOffset) (s : State) :
    Host.Outcome State Fault Refusal :=
  runInstruction ⟨rsel, aluf, bs, f1, 9#4, t, l, next⟩ s

/-- F2.12. R151: F2 code 10 (12 octal) calls the task's own handlers. -/
def execF2Code12 (rsel : RegSel) (aluf : BitVec 4) (bs : BitVec 3) (f1 : BitVec 4) (t l : Bool) (next : PageOffset) (s : State) :
    Host.Outcome State Fault Refusal :=
  runInstruction ⟨rsel, aluf, bs, f1, 10#4, t, l, next⟩ s

/-- F2.13. R151: F2 code 11 (13 octal) calls the task's own handlers. -/
def execF2Code13 (rsel : RegSel) (aluf : BitVec 4) (bs : BitVec 3) (f1 : BitVec 4) (t l : Bool) (next : PageOffset) (s : State) :
    Host.Outcome State Fault Refusal :=
  runInstruction ⟨rsel, aluf, bs, f1, 11#4, t, l, next⟩ s

/-- F2.14. R151: F2 code 12 (14 octal) calls the task's own handlers. -/
def execF2Code14 (rsel : RegSel) (aluf : BitVec 4) (bs : BitVec 3) (f1 : BitVec 4) (t l : Bool) (next : PageOffset) (s : State) :
    Host.Outcome State Fault Refusal :=
  runInstruction ⟨rsel, aluf, bs, f1, 12#4, t, l, next⟩ s

/-- F2.15. R151: F2 code 13 (15 octal) calls the task's own handlers. -/
def execF2Code15 (rsel : RegSel) (aluf : BitVec 4) (bs : BitVec 3) (f1 : BitVec 4) (t l : Bool) (next : PageOffset) (s : State) :
    Host.Outcome State Fault Refusal :=
  runInstruction ⟨rsel, aluf, bs, f1, 13#4, t, l, next⟩ s

/-- F2.16. R151: F2 code 14 (16 octal) calls the task's own handlers. -/
def execF2Code16 (rsel : RegSel) (aluf : BitVec 4) (bs : BitVec 3) (f1 : BitVec 4) (t l : Bool) (next : PageOffset) (s : State) :
    Host.Outcome State Fault Refusal :=
  runInstruction ⟨rsel, aluf, bs, f1, 14#4, t, l, next⟩ s

/-- F2.17. R151: F2 code 15 (17 octal) calls the task's own handlers. -/
def execF2Code17 (rsel : RegSel) (aluf : BitVec 4) (bs : BitVec 3) (f1 : BitVec 4) (t l : Bool) (next : PageOffset) (s : State) :
    Host.Outcome State Fault Refusal :=
  runInstruction ⟨rsel, aluf, bs, f1, 15#4, t, l, next⟩ s

end Sys2Proof.Machine
end

