-- ==== Sys2Proof/Machine/LoadRows.lean ====
section
/-! DEFINITION. The meanings of LOAD_T and LOAD_L (spec/44_engine.md R199, R200): each row is a complete microinstruction with
its own code in its own field (log entry 5), run by `runInstruction`. -/

namespace Sys2Proof.Machine

/-- LOAD_T. R200: T is loaded at step 8. -/
def execLoadT (rsel : RegSel) (aluf : BitVec 4) (bs : BitVec 3) (f1 f2 : BitVec 4) (l : Bool) (next : PageOffset) (s : State) :
    Host.Outcome State Fault Refusal :=
  runInstruction ⟨rsel, aluf, bs, f1, f2, true, l, next⟩ s

/-- LOAD_L. R199: L (and LALUC0, and M in a RAM-related task) is loaded at step 8. -/
def execLoadL (rsel : RegSel) (aluf : BitVec 4) (bs : BitVec 3) (f1 f2 : BitVec 4) (t : Bool) (next : PageOffset) (s : State) :
    Host.Outcome State Fault Refusal :=
  runInstruction ⟨rsel, aluf, bs, f1, f2, t, true, next⟩ s

end Sys2Proof.Machine
end

