-- ==== Sys2Proof/Machine/Dispatch.lean ====
section
/-! DEFINITION. The dispatch of an instruction to its meaning: one arm per row of the opcode table. -/

namespace Sys2Proof.Machine

def exec (i : Instr) (s : State) : Host.Outcome State Fault Refusal :=
  match i with
  | .aluBus rsel bs f1 f2 t l next => Sys2Proof.Machine.execAluBus rsel bs f1 f2 t l next s
  | .aluT rsel bs f1 f2 t l next => Sys2Proof.Machine.execAluT rsel bs f1 f2 t l next s
  | .aluBusOrT rsel bs f1 f2 t l next => Sys2Proof.Machine.execAluBusOrT rsel bs f1 f2 t l next s
  | .aluBusAndT rsel bs f1 f2 t l next => Sys2Proof.Machine.execAluBusAndT rsel bs f1 f2 t l next s
  | .aluBusXorT rsel bs f1 f2 t l next => Sys2Proof.Machine.execAluBusXorT rsel bs f1 f2 t l next s
  | .aluBusPlus1 rsel bs f1 f2 t l next => Sys2Proof.Machine.execAluBusPlus1 rsel bs f1 f2 t l next s
  | .aluBusMinus1 rsel bs f1 f2 t l next => Sys2Proof.Machine.execAluBusMinus1 rsel bs f1 f2 t l next s
  | .aluBusPlusT rsel bs f1 f2 t l next => Sys2Proof.Machine.execAluBusPlusT rsel bs f1 f2 t l next s
  | .aluBusMinusT rsel bs f1 f2 t l next => Sys2Proof.Machine.execAluBusMinusT rsel bs f1 f2 t l next s
  | .aluBusMinusTMinus1 rsel bs f1 f2 t l next => Sys2Proof.Machine.execAluBusMinusTMinus1 rsel bs f1 f2 t l next s
  | .aluBusPlusTPlus1 rsel bs f1 f2 t l next => Sys2Proof.Machine.execAluBusPlusTPlus1 rsel bs f1 f2 t l next s
  | .aluBusPlusSkip rsel bs f1 f2 t l next => Sys2Proof.Machine.execAluBusPlusSkip rsel bs f1 f2 t l next s
  | .aluBusDotT rsel bs f1 f2 t l next => Sys2Proof.Machine.execAluBusDotT rsel bs f1 f2 t l next s
  | .aluBusAndNotT rsel bs f1 f2 t l next => Sys2Proof.Machine.execAluBusAndNotT rsel bs f1 f2 t l next s
  | .aluUndef016 rsel bs f1 f2 t l next => Sys2Proof.Machine.execAluUndef016 rsel bs f1 f2 t l next s
  | .aluUndef017 rsel bs f1 f2 t l next => Sys2Proof.Machine.execAluUndef017 rsel bs f1 f2 t l next s
  | .bs0 rsel aluf f1 f2 t l next => Sys2Proof.Machine.execBs0 rsel aluf f1 f2 t l next s
  | .bs1 rsel aluf f1 f2 t l next => Sys2Proof.Machine.execBs1 rsel aluf f1 f2 t l next s
  | .bs2 rsel aluf f1 f2 t l next => Sys2Proof.Machine.execBs2 rsel aluf f1 f2 t l next s
  | .bs3 rsel aluf f1 f2 t l next => Sys2Proof.Machine.execBs3 rsel aluf f1 f2 t l next s
  | .bs4 rsel aluf f1 f2 t l next => Sys2Proof.Machine.execBs4 rsel aluf f1 f2 t l next s
  | .bs5 rsel aluf f1 f2 t l next => Sys2Proof.Machine.execBs5 rsel aluf f1 f2 t l next s
  | .bs6 rsel aluf f1 f2 t l next => Sys2Proof.Machine.execBs6 rsel aluf f1 f2 t l next s
  | .bs7 rsel aluf f1 f2 t l next => Sys2Proof.Machine.execBs7 rsel aluf f1 f2 t l next s
  | .f1Code0 rsel aluf bs f2 t l next => Sys2Proof.Machine.execF1Code0 rsel aluf bs f2 t l next s
  | .f1Code1 rsel aluf bs f2 t l next => Sys2Proof.Machine.execF1Code1 rsel aluf bs f2 t l next s
  | .f1Task rsel aluf bs f2 t l next => Sys2Proof.Machine.execF1Task rsel aluf bs f2 t l next s
  | .f1Code3 rsel aluf bs f2 t l next => Sys2Proof.Machine.execF1Code3 rsel aluf bs f2 t l next s
  | .f1Code4 rsel aluf bs f2 t l next => Sys2Proof.Machine.execF1Code4 rsel aluf bs f2 t l next s
  | .f1Code5 rsel aluf bs f2 t l next => Sys2Proof.Machine.execF1Code5 rsel aluf bs f2 t l next s
  | .f1Code6 rsel aluf bs f2 t l next => Sys2Proof.Machine.execF1Code6 rsel aluf bs f2 t l next s
  | .f1Const rsel aluf bs f2 t l next => Sys2Proof.Machine.execF1Const rsel aluf bs f2 t l next s
  | .f1Code10 rsel aluf bs f2 t l next => Sys2Proof.Machine.execF1Code10 rsel aluf bs f2 t l next s
  | .f1Wrtram rsel aluf bs f2 t l next => Sys2Proof.Machine.execF1Wrtram rsel aluf bs f2 t l next s
  | .f1Rdram rsel aluf bs f2 t l next => Sys2Proof.Machine.execF1Rdram rsel aluf bs f2 t l next s
  | .f1Code13 rsel aluf bs f2 t l next => Sys2Proof.Machine.execF1Code13 rsel aluf bs f2 t l next s
  | .f1Code14 rsel aluf bs f2 t l next => Sys2Proof.Machine.execF1Code14 rsel aluf bs f2 t l next s
  | .f1Code15 rsel aluf bs f2 t l next => Sys2Proof.Machine.execF1Code15 rsel aluf bs f2 t l next s
  | .f1Code16 rsel aluf bs f2 t l next => Sys2Proof.Machine.execF1Code16 rsel aluf bs f2 t l next s
  | .f1Code17 rsel aluf bs f2 t l next => Sys2Proof.Machine.execF1Code17 rsel aluf bs f2 t l next s
  | .f2Code0 rsel aluf bs f1 t l next => Sys2Proof.Machine.execF2Code0 rsel aluf bs f1 t l next s
  | .f2Code1 rsel aluf bs f1 t l next => Sys2Proof.Machine.execF2Code1 rsel aluf bs f1 t l next s
  | .f2Code2 rsel aluf bs f1 t l next => Sys2Proof.Machine.execF2Code2 rsel aluf bs f1 t l next s
  | .f2Code3 rsel aluf bs f1 t l next => Sys2Proof.Machine.execF2Code3 rsel aluf bs f1 t l next s
  | .f2Code4 rsel aluf bs f1 t l next => Sys2Proof.Machine.execF2Code4 rsel aluf bs f1 t l next s
  | .f2Code5 rsel aluf bs f1 t l next => Sys2Proof.Machine.execF2Code5 rsel aluf bs f1 t l next s
  | .f2Code6 rsel aluf bs f1 t l next => Sys2Proof.Machine.execF2Code6 rsel aluf bs f1 t l next s
  | .f2Const rsel aluf bs f1 t l next => Sys2Proof.Machine.execF2Const rsel aluf bs f1 t l next s
  | .f2Code10 rsel aluf bs f1 t l next => Sys2Proof.Machine.execF2Code10 rsel aluf bs f1 t l next s
  | .f2Code11 rsel aluf bs f1 t l next => Sys2Proof.Machine.execF2Code11 rsel aluf bs f1 t l next s
  | .f2Code12 rsel aluf bs f1 t l next => Sys2Proof.Machine.execF2Code12 rsel aluf bs f1 t l next s
  | .f2Code13 rsel aluf bs f1 t l next => Sys2Proof.Machine.execF2Code13 rsel aluf bs f1 t l next s
  | .f2Code14 rsel aluf bs f1 t l next => Sys2Proof.Machine.execF2Code14 rsel aluf bs f1 t l next s
  | .f2Code15 rsel aluf bs f1 t l next => Sys2Proof.Machine.execF2Code15 rsel aluf bs f1 t l next s
  | .f2Code16 rsel aluf bs f1 t l next => Sys2Proof.Machine.execF2Code16 rsel aluf bs f1 t l next s
  | .f2Code17 rsel aluf bs f1 t l next => Sys2Proof.Machine.execF2Code17 rsel aluf bs f1 t l next s
  | .loadT rsel aluf bs f1 f2 l next => Sys2Proof.Machine.execLoadT rsel aluf bs f1 f2 l next s
  | .loadL rsel aluf bs f1 f2 t next => Sys2Proof.Machine.execLoadL rsel aluf bs f1 f2 t next s

end Sys2Proof.Machine
end

