-- ==== Sys2Proof/Machine/Slice.lean ====
section
/-! DEFINITION. The microcycle, the slice and the host's calls (spec/44_engine.md R190 to R206, spec/45_timer.md R220):
everything around the execution of one microinstruction. -/

namespace Sys2Proof.Machine

/-! ### One microcycle -/

/-- Step 1 (R192): the budget, the simulated time and the task's elapsed time. -/
def account (s : State) : State :=
  { s with
    remain := s.remain - (s.cfg.cycleNs : Int)
    now := s.now + s.cfg.cycleNs
    taskNs := s.taskNs.set s.curTask.val (s.taskNs[s.curTask.val] + s.cfg.cycleNs) }

/-- Step 2 (R193): call `TICK`, if one is registered (R161). -/
def tick (s : State) : State :=
  match s.cfg.tick with
  | some h => callHandler h none s
  | none => s

/-- The address a fetch reads: the base's page, and the base's offset with the modifier ORed in (R101). -/
def fetchAddress (s : State) : MicroAddr :=
  { page := s.nextPc.page, offset := s.nextPc.offset ||| s.next2 }

/-- The page of a micro-address exists (R60, R62). -/
def inStore (c : Config) (a : MicroAddr) : Bool := decide (a.page < c.pages)

/-- Step 3, fetch (R101): MPC is set; decode loads MIR and RSEL (`loadMir`). -/
def fetch (s : State) : State := { s with mpc := fetchAddress s }

/-- Steps 1 and 2: what stands before a fetch. -/
def beforeFetch (s : State) : State := tick (account s)

/-- One microcycle (R191): account, tick, fetch, and the decoded instruction. A fatal tick ends it (R202). -/
def microcycle (s : State) : Host.Outcome State Fault Refusal :=
  let s' := beforeFetch s
  if s'.fatal.isSome then .next s'
  else if inStore s'.cfg (fetchAddress s') then
    exec (decode (ucRead s' (fetchAddress s').toNat)) (fetch s')
  else .fault (.microAddressOutsideStore (fetchAddress s').toNat)

/-! ### A slice -/

/-- The entry of `execute(budget)` (R190). -/
def beginSlice (budget : Nat) (s : State) : State :=
  { s with
    inSlice := true
    sliceEnd := s.now + budget
    remain := (budget : Int)
    leave := false
    budget := budget }

/-- The loop test of `execute` (R190). -/
def sliceMayRun (s : State) : Bool := decide (0 < s.remain) && !s.leave && s.fatal.isNone

/-- The nanoseconds the running call has consumed: `budget - REMAIN` (R190). -/
def consumedNs (s : State) : Nat := ((s.budget : Int) - s.remain).toNat

/-- The return of `execute` (R190). -/
def endSlice (s : State) : State := { s with inSlice := false, reply := some (.consumed (consumedNs s)) }

/-- After a microcycle the loop test is made again: the slice goes on or ends (R190, R202). -/
def afterCycle (s : State) : State := if sliceMayRun s then s else endSlice s

/-- One turn of the loop of `execute` (R190). -/
def sliceStep (s : State) : Host.Outcome State Fault Refusal :=
  if sliceMayRun s then
    match microcycle s with
    | .next s' => .next (afterCycle s')
    | .fault f => .fault f
    | .refused r => .refused r
  else .next (endSlice s)

/-- The call of `execute(budget)` up to its first microcycle (R190): in the fatal state it returns 0. -/
def startExecute (budget : Nat) (s : State) : Host.Outcome State Fault Refusal :=
  if s.fatal.isSome then .next { s with reply := some (.consumed 0) }
  else sliceStep (beginSlice budget s)

/-- The turns of the loop of `execute` from inside a slice, at most `fuel` of them. -/
def runSlice (fuel : Nat) (s : State) : Host.Outcome State Fault Refusal :=
  match fuel with
  | 0 => .next s
  | n + 1 =>
    if s.inSlice then
      match sliceStep s with
      | .next s' => runSlice n s'
      | .fault f => .fault f
      | .refused r => .refused r
    else .next s

/-- The whole call `execute(budget)` (R190). Every turn takes at least 1 ns of the budget where `CYCLE_NS > 0`, so
`budget + 1` turns are enough. -/
def execute (budget : Nat) (s : State) : Host.Outcome State Fault Refusal :=
  match startExecute budget s with
  | .next s' => runSlice budget s'
  | .fault f => .fault f
  | .refused r => .refused r

/-! ### The timer between slices -/

/-- The event `fire_due` would fire: the head of the queue, if it is due and the hardware runs (R220, R240). -/
def dueEvent (s : State) : Option Event :=
  if s.fatal.isSome then none
  else s.queue.head?.filter fun e => decide (e.time ≤ s.now)

/-- Run an event's callback at the event's own time, then restore the time (R220). -/
def runEvent (e : Event) (s : State) : State :=
  { callHandler (callbackOf s.cfg e.callback) (some e.arg) { s with queue := s.queue.tail, now := e.time } with
    now := s.now }

/-- `fire_due()` (R220); it returns the id of the event fired. -/
def fireDue (s : State) : State :=
  match dueEvent s with
  | some e => { runEvent e s with reply := some (.fired (some e.id)) }
  | none => { s with reply := some (.fired none) }

/-! ### The host -/

/-- A call of the host's (R190, R215). -/
def hostCall (call : HostCall) (s : State) : Host.Outcome State Fault Refusal :=
  match call with
  | .execute budget => startExecute budget s
  | .insert delay callback arg name =>
    .next { insertEvent delay callback arg name s with reply := some (.inserted s.nextId) }
  | .remove id => .next { removeEvent id s with reply := some (.removed (isQueued s id)) }
  | .fireDue => .next (fireDue s)
  | .timeUntilNext => .next { s with reply := some (.untilNext (timeUntilNext s)) }

/-- The budget of R206's loop: `min(host_slice, time_until_next() or host_slice)`. -/
def loopBudget (s : State) : Nat :=
  match timeUntilNext s with
  | some ns => min s.cfg.hostSlice ns
  | none => s.cfg.hostSlice

/-- One turn of the host loop of R206: fire one due event, or call `execute`. -/
def hostLoop (s : State) : Host.Outcome State Fault Refusal :=
  match dueEvent s with
  | some _ => .next (fireDue s)
  | none => startExecute (loopBudget s) s

/-- One step of the machine (log entry 9): inside a slice one turn of its loop; between slices the host's next
call, or a turn of its loop where none is pending. A configuration R264 calls ill-formed is refused. -/
def stepBody (s : State) : Host.Outcome State Fault Refusal :=
  if s.cfg.wellFormed then
    if s.inSlice then sliceStep s
    else
      match s.hostCalls with
      | call :: rest => hostCall call { s with hostCalls := rest }
      | [] => hostLoop s
  else .refused .illFormedConfiguration

/-- The host decides on further calls, which `step` makes after those already pending (R206; log entries 4 and 9). -/
def offerCalls (calls : List HostCall) (s : State) : State := { s with hostCalls := s.hostCalls ++ calls }

/-! ### The launch (R264) -/

/-- R264 item 3 and R60: an image of `U` is in canonical form and lists no word outside `U`. -/
def imageOk (c : Config) (image : Memory 32) : Bool := Memory.wf image && Memory.below image (storeWords c)

/-- R264 item 6: the collaborators' initial timer events, inserted one after the other. -/
def insertAll (events : List InitialEvent) (s : State) : State :=
  events.foldl (fun u e => insertEvent e.delay e.callback e.arg e.name u) s

/-- The launch (R264): the checks of configuration and image, the reset of R261, and the initial timer events, whose
fire-times count from `NOW = 0`. -/
def launch (c : Config) (image : Memory 32) (events : List InitialEvent) : Host.Outcome State Fault Refusal :=
  if c.wellFormed then
    if imageOk c image then .next (insertAll events (State.init c image)) else .refused .illFormedImage
  else .refused .illFormedConfiguration

/-! ### Loading a word where the next step fetches -/

/-- The state in which the next step's fetch happens, for a step that runs a microcycle. -/
def fetchPoint (s : State) : State := beforeFetch (if s.inSlice then s else beginSlice (loopBudget s) s)

/-- Put a word where the next step fetches its instruction (log entry 10). -/
def loadNextWord (w : MicroWord) (s : State) : State := ucWrite (fetchAddress (fetchPoint s)).toNat w s

end Sys2Proof.Machine
end

