-- ==== Sys2Proof/Machine/Step.lean ====
section
/-! DEFINITION. The step of the machine and the host's way to place an instruction. -/

namespace Sys2Proof.Machine

/-- One step: see `stepBody`. -/
def step (s : State) : Host.Outcome State Fault Refusal := stepBody s

/-- The state with the instruction whose bits are `w` (those above `nbits` being 0) where `step` fetches its next
instruction (log entry 10). -/
def State.withFetchWord (s : State) (nbits w : Nat) : State :=
  loadNextWord (BitVec.ofNat 32 (w % 2 ^ nbits)) s

end Sys2Proof.Machine
end

