-- ==== Sys2Proof/Safety.lean ====
section
/-! DEFINITION. The terms the statements use: the invariant of a safe run, what a handler may not change, when a
microinstruction runs undisturbed by collaborators, and the state it then leaves, in closed form. -/

namespace Sys2Proof.Machine

/-! ### The invariant -/

/-- The order of the timer queue (R216). -/
def eventBefore (e f : Event) : Prop := e.time < f.time ∨ (e.time = f.time ∧ e.id < f.id)

/-- The queue is ordered by (time, id), and every queued id has been handed out (R216, R217). -/
structure TimerOk (s : State) : Prop where
  sorted : s.queue.Pairwise eventBefore
  idsBelow : ∀ e ∈ s.queue, e.id < s.nextId

/-- What holds of every state of a run: the configuration is one the launch accepts (R264); the store is in
canonical form and holds nothing outside `U` (R60); there are NSBANK banks (R22); every micro-address lies in a page
that exists (R103); the timer queue is in order (R216); and while a slice runs its clock adds up and its loop test
holds (R190, R192). -/
structure MachineInv (s : State) : Prop where
  config : s.cfg.wellFormed = true
  storeWf : Memory.wf s.store = true
  storeBelow : Memory.below s.store (storeWords s.cfg) = true
  banks : s.sBanks.length = s.cfg.nsBank
  mpcPage : s.mpc.page < s.cfg.pages
  nextPage : s.nextPc.page < s.cfg.pages
  savedPages : ∀ t : Task, s.tmpc[t.val].page < s.cfg.pages
  timer : TimerOk s
  sliceClock : s.inSlice = true → (s.now : Int) + s.remain = (s.sliceEnd : Int)
  sliceLive : s.inSlice = true → sliceMayRun s = true

/-! ### The handler contract -/

/-- Everything R150 and R104 keep from a handler is as before: the microinstruction, the micro-addresses, the save
areas, the scheduler's task registers, the control RAM requests, the ALU's outputs, time and the slice, the store,
the configuration and the host's side. -/
structure ContractKept (s t : State) : Prop where
  alu : t.alu = s.alu
  aluc0 : t.aluc0 = s.aluc0
  laluc0 : t.laluc0 = s.laluc0
  tself : t.tself = s.tself
  mir : t.mir = s.mir
  mpc : t.mpc = s.mpc
  nextPc : t.nextPc = s.nextPc
  tmpc : t.tmpc = s.tmpc
  tnext2 : t.tnext2 = s.tnext2
  curTask : t.curTask = s.curTask
  nextTask : t.nextTask = s.nextTask
  nnTask : t.nnTask = s.nnTask
  rdramPend : t.rdramPend = s.rdramPend
  wrtramPend : t.wrtramPend = s.wrtramPend
  cramAddr : t.cramAddr = s.cramAddr
  now : t.now = s.now
  taskNs : t.taskNs = s.taskNs
  inSlice : t.inSlice = s.inSlice
  sliceEnd : t.sliceEnd = s.sliceEnd
  remain : t.remain = s.remain
  store : t.store = s.store
  cfg : t.cfg = s.cfg
  hostCalls : t.hostCalls = s.hostCalls
  budget : t.budget = s.budget
  reply : t.reply = s.reply

/-- What R150 lets a handler change in one direction only: LOG grows at its end, NEXT_ID does not fall, and LEAVE is not
cleared. -/
structure OnlyGrows (s t : State) : Prop where
  log : ∃ new, t.log = s.log ++ new
  nextId : s.nextId ≤ t.nextId
  leave : s.leave = true → t.leave = true

/-! ### Undisturbed microinstructions -/

/-- A slot whose call leaves the context as it is. -/
def isInert : SlotFn → Bool
  | .noEffect => true
  | .registered h => decide (h = inertHandler)
  | .taskFunction | .flagRdram | .flagWrtram | .stub => false

/-- A slot that no collaborator acts in: an inert one, or one of the core's F1 functions. -/
def isCoreOrInert : SlotFn → Bool
  | .taskFunction | .flagRdram | .flagWrtram => true
  | .noEffect => true
  | .registered h => decide (h = inertHandler)
  | .stub => false

/-- A microinstruction that runs with no collaborator acting in it: the hardware runs, `STALL` is false, the six
slots of the running task are the core's or inert, TASK finds a request, and a switch's activate callback, if any, is
inert. -/
structure Undisturbed (m : Micro) (s : State) : Prop where
  running : s.fatal = none
  notStalled : isStalled (loadMir m s) = false
  f2Early : isInert (f2Slot s.cfg .early s.curTask m.f2) = true
  f2Late : isInert (f2Slot s.cfg .late s.curTask m.f2) = true
  bsEarly : isInert (bsSlot s.cfg .early s.curTask m.bs) = true
  bsLate : isInert (bsSlot s.cfg .late s.curTask m.bs) = true
  f1Early : isCoreOrInert (f1Slot s.cfg .early s.curTask m.f1) = true
  f1Late : isCoreOrInert (f1Slot s.cfg .late s.curTask m.f1) = true
  request : m.f1 = f1Task → s.wakeup ≠ 0#16
  activate : ∀ h, activateOf s.cfg s.nextTask = some h → h = inertHandler

/-- The bus at the ALU when no collaborator drives it: all ones, the constant, the RDRAM data (R196). -/
def coreBus (m : Micro) (s : State) : Word :=
  let constant := if usesConstant s.cfg m then constRead s.cfg (constAddress m) else 0xFFFF#16
  let rdram :=
    if s.rdramPend then
      match cramTarget s.cfg s.cramAddr with
      | some a => rdramData s a
      | none => 0xFFFF#16
    else 0xFFFF#16
  constant &&& rdram

/-- The ALU's outcome on the core's own bus (R197). -/
def coreAlu (m : Micro) (s : State) : AluOutcome := alu s.cfg (coreBus m s) s.t m.aluf s.skip

/-- The anomalies of an undisturbed microinstruction, in step order (R250). -/
def coreReports (m : Micro) (s : State) : List AnomalyReport :=
  (if s.rdramPend = true ∧ cramTarget s.cfg s.cramAddr = none then [.rdramOutOfRange s.cramAddr] else []) ++
  (if isUndefinedCode m.aluf then [.undefinedAluFunction m.aluf] else []) ++
  (if s.wrtramPend = true ∧ wrtramTarget s.cfg s.cramAddr = none then [.wrtramIgnored s.cramAddr] else [])

/-- The store after an undisturbed microinstruction: the one word a pending WRTRAM writes (R109). -/
def coreStore (m : Micro) (s : State) : Memory 32 :=
  if s.wrtramPend then
    match wrtramTarget s.cfg s.cramAddr with
    | some a => Memory.write s.store a ((s.l ++ (coreAlu m s).result) ^^^ s.cfg.ucInv)
    | none => s.store
  else s.store

/-- NNTASK after an undisturbed microinstruction: TASK's sample, or as before (R171). -/
def coreNnTask (m : Micro) (s : State) : Task :=
  if m.f1 = f1Task then (highestRequester s.wakeup).getD s.nnTask else s.nnTask

/-- Whether the F1 function of a microinstruction flags a control RAM request in its late phase (R107, R108). -/
def flagsLate (fn : SlotFn) (m : Micro) (s : State) : Bool :=
  decide (f1Slot s.cfg .late s.curTask m.f1 = fn)

/-- The state an undisturbed microinstruction leaves (R191 steps 3 to 9), in closed form: what is not named here is
as before. -/
def undisturbedResult (m : Micro) (s : State) : State :=
  let out := coreAlu m s
  let switches : Bool := decide (s.curTask ≠ s.nextTask)
  let successor : MicroAddr := { page := s.mpc.page, offset := m.next }
  let rdram := flagsLate .flagRdram m s
  let wrtram := flagsLate .flagWrtram m s
  { s with
    mir := microWord m
    rsel := m.rsel
    bus := coreBus m s
    alu := out.result
    aluc0 := out.carryOut
    tself := out.tsel
    l := if m.l then out.result else s.l
    laluc0 := if m.l then out.carryOut else s.laluc0
    m := if m.l && isRamTask s.cfg s.curTask then out.result else s.m
    t := if m.t then (if out.tsel then out.result else coreBus m s) else s.t
    rdramPend := rdram
    wrtramPend := wrtram
    cramAddr := if rdram || wrtram then out.result else s.cramAddr
    store := coreStore m s
    log := s.log ++ (coreReports m s).map fun report =>
      { report := report, task := s.curTask, mpc := s.mpc, now := s.now }
    nnTask := coreNnTask m s
    nextTask := if switches then s.nextTask else coreNnTask m s
    curTask := s.nextTask
    nextPc := if switches then s.tmpc[s.nextTask.val] else successor
    next2 := if switches then s.tnext2[s.nextTask.val] else 0#10
    tmpc := if switches then s.tmpc.set s.curTask.val successor else s.tmpc
    tnext2 := if switches then s.tnext2.set s.curTask.val 0#10 else s.tnext2 }

/-! ### Described collaborators -/

/-- A described handler none of whose lines is fatal: it always returns a context. -/
def neverFatal : Handler → Bool
  | .script lines => lines.all fun ln =>
      match ln.effect with
      | .act _ => true
      | .fail _ | .callExecute => false
  | .external _ => false

/-- A slot whose call always returns a context: not the stub, not TASK, and no handler that can be fatal. -/
def slotAnswers : SlotFn → Bool
  | .noEffect | .flagRdram | .flagWrtram => true
  | .registered h => neverFatal h
  | .taskFunction | .stub => false

/-- A handler the launch describes. -/
def isDescribed : Handler → Bool
  | .script _ => true
  | .external _ => false

/-- A configuration whose collaborators, other than timer callbacks, are all described. -/
def describedConfig (c : Config) : Bool :=
  (c.fnBs.all fun g => isDescribed g.handler) && (c.fnF1.all fun g => isDescribed g.handler) &&
  (c.fnF2.all fun g => isDescribed g.handler) && (c.activate.all fun p => isDescribed p.2) &&
  (c.tick.all isDescribed) &&
  (match c.stall with
    | .never | .whenever _ => true
    | .external _ => false)

/-- The sum of the tasks' elapsed times (R43). -/
def totalTaskNs (s : State) : Nat := s.taskNs.toList.sum

end Sys2Proof.Machine
end

