-- ==== Sys2Proof/Certificates/Slice0/Obligations.lean ====
section
/-! DEFINITION. The statements about the model, one definition each. `R<n>` is a rule of spec/, `D<n>` a decision of
spec/92_eei_decisions.md, `C<n>` a conflict of spec/90_conflicts.md. -/

open Sys2Proof Sys2Proof.Machine

/-! ### Encoding -/

/-- Decoding the word of an instruction whose row names that word gives the instruction back, with every operand at
every value. Which row names a word is the model's choice (log entry 5). -/
def Obligations.DecodeEncodeWellFormed : Prop :=
  ∀ i : Instr, i.wellFormed = true → decode (encode i) = i

/-- Every 32-bit word is the word of the instruction it decodes to: no bit is dropped and no word is illegal. -/
def Obligations.EncodeDecodeEveryWord : Prop :=
  ∀ w : MicroWord, encode (decode w) = w ∧ decodeTableWord 32 w.toNat = some (decode w)

/-- Two rows that match one word mean the same: the naming rule (log entry 5) changes no behaviour. -/
def Obligations.RowsOfOneWordMeanTheSame : Prop :=
  ∀ (i j : Instr) (s : State), encode i = encode j → exec i s = exec j s

/-- The three words of vector V3.1 decode to the fields it gives. -/
def Obligations.SpecWordsDecode : Prop :=
  decode 0x002A7001#32 = .aluBus 0 2 0xA 7 false false 1 ∧
  decode 0x08270801#32 = .aluBus 1 2 7 0 true false 1 ∧
  decode 0x23100806#32 = .aluBusMinus1 4 1 0 0 true false 6

/-! ### The step -/

/-- A step that runs a microcycle (inside a slice, or as the first microcycle of the `execute` of the host loop) runs
the instruction its fetched word decodes to, after steps 1 and 2 and the fetch, and then makes the loop test. -/
def Obligations.StepRunsTheDecodedInstruction : Prop :=
  ∀ s s1 : State, s.cfg.wellFormed = true →
    ((s.inSlice = true ∧ s1 = s) ∨
      (s.inSlice = false ∧ s.fatal = none ∧ s.hostCalls = [] ∧ dueEvent s = none ∧
        s1 = beginSlice (loopBudget s) s)) →
    sliceMayRun s1 = true → (beforeFetch s1).fatal = none →
    inStore (beforeFetch s1).cfg (fetchAddress (beforeFetch s1)) = true →
    ∀ i : Instr, decode (ucRead (beforeFetch s1) (fetchAddress (beforeFetch s1)).toNat) = i →
      ∃ t, exec i (fetch (beforeFetch s1)) = .next t ∧ step s = .next (afterCycle t)

/-- A word placed for the first step after reset is the one that step decodes and runs. -/
def Obligations.PlacedWordRunsAfterReset : Prop :=
  ∀ w : MicroWord, ∃ u t,
    u = beforeFetch (beginSlice 1700 (State.reset.withFetchWord 32 w.toNat)) ∧
    ucRead u (fetchAddress u).toNat = w ∧
    exec (decode w) (fetch u) = .next t ∧
    step (State.reset.withFetchWord 32 w.toNat) = .next (afterCycle t)

/-- The invariant of a safe run is kept by every step from every state that has it. -/
def Obligations.StepKeepsTheInvariant : Prop :=
  ∀ s s' : State, MachineInv s → step s = .next s' → MachineInv s'

/-- The state after reset has the invariant. -/
def Obligations.ResetMeetsTheInvariant : Prop := MachineInv State.reset

/-- Every launch that is not refused gives a state with the invariant, the given configuration and image, and in the queue
exactly the initial timer events, each with its fire-time counted from 0 (R264) and the ids from 1 on in the order given (R217).
That the events are inserted after the reset, and so stand in the queue, is the model's reading (log entry 13). -/
def Obligations.LaunchMeetsTheInvariant : Prop :=
  ∀ (c : Config) (image : Memory 32) (events : List InitialEvent) (s : State), launch c image events = .next s →
    MachineInv s ∧ s.cfg = c ∧ s.store = image ∧ s.now = 0 ∧ s.nextId = events.length + 1 ∧
    ∀ e : Event, e ∈ s.queue ↔
      ∃ k x, events[k]? = some x ∧ e = ⟨k + 1, x.delay, x.callback, x.arg, x.name⟩

/-- From the invariant the machine never stops with a fault or a refusal: every step answers a next state. -/
def Obligations.StepNeverStopsFromTheInvariant : Prop :=
  ∀ s : State, MachineInv s → ∃ s', step s = .next s'

/-- A configuration that breaks R264, R89 or R155 is refused at launch and by the step (that the step checks too is the
model's reading, log entry 13), and an image with a word outside `U` is refused at launch. -/
def Obligations.IllFormedConfigurationIsRefused : Prop :=
  (∀ (c : Config) (image : Memory 32) (events : List InitialEvent) (a : Nat) (v : MicroWord), c.wellFormed = true →
    (a, v) ∈ image → (c.romPages + c.ramPages) * 1024 ≤ a →
    launch c image events = .refused .illFormedImage) ∧
  ∀ (s : State) (image : Memory 32) (events : List InitialEvent),
    (s.cfg.romPages = 0 ∨ s.cfg.nsBank = 0 ∨ s.cfg.cycleNs = 0 ∨
      (∃ k : Task, s.cfg.pages * 1024 ≤ s.cfg.resetMpc[k.val]) ∨
      s.cfg.f1Const = 2#4 ∨ s.cfg.f1Wrtram = 2#4 ∨ s.cfg.f1Rdram = 2#4 ∨
      s.cfg.f1Const = s.cfg.f1Wrtram ∨ s.cfg.f1Const = s.cfg.f1Rdram ∨ s.cfg.f1Wrtram = s.cfg.f1Rdram ∨
      (∃ g ∈ s.cfg.fnF1, g.code = 2 ∨ g.code = s.cfg.f1Const.toNat) ∨
      (∃ g ∈ s.cfg.fnF1, g.task ∈ s.cfg.ramTasks ∧
        (g.code = s.cfg.f1Rdram.toNat ∨ g.code = s.cfg.f1Wrtram.toNat)) ∨
      (∃ g ∈ s.cfg.fnF2, g.code = s.cfg.f2Const.toNat)) →
    step s = .refused .illFormedConfiguration ∧ launch s.cfg image events = .refused .illFormedConfiguration

/-- No step writes the configuration, from any state. -/
def Obligations.StepNeverWritesTheConfiguration : Prop :=
  ∀ s s' : State, step s = .next s' → s'.cfg = s.cfg

/-- R63: `UcWrite` sets the one word it names; an instruction, and so a step, changes no word of `U` but the target of
a pending WRTRAM, which lies in a RAM page; and no step changes a ROM word. For every state and every collaborator. -/
def Obligations.OnlyWrtramWritesTheStore : Prop :=
  (∀ (s : State) (a b : Nat) (v : MicroWord), ucRead (ucWrite a v s) b = if b = a then v else ucRead s b) ∧
  (∀ (i : Instr) (s t : State) (a : Nat), exec i s = .next t →
    (s.wrtramPend = true → wrtramTarget s.cfg s.cramAddr ≠ some a) → ucRead t a = ucRead s a) ∧
  (∀ (c : Config) (addr : Word) (a : Nat), wrtramTarget c addr = some a →
    c.romPages * 1024 ≤ a ∧ a < (c.romPages + c.ramPages) * 1024) ∧
  (∀ (s s' : State) (a : Nat), step s = .next s' →
    (s.wrtramPend = true → wrtramTarget s.cfg s.cramAddr ≠ some a) → ucRead s' a = ucRead s a) ∧
  (∀ (s s' : State) (a : Nat), step s = .next s' → a < s.cfg.romPages * 1024 → ucRead s' a = ucRead s a)

/-- An instruction leaves time, the slice, the configuration, the micro-PC and the host's side as they are, and only appends to
the log. For every state and every collaborator. It leaves NOW, TASK_NS, REMAIN and MPC because `exec` begins at decode, after
the accounting, the tick and the fetch of the microcycle, which is the model's choice (log entry 18); the host's side, hostCalls,
budget and reply, are the model's own fields (log entry 4). -/
def Obligations.InstructionFrame : Prop :=
  ∀ (i : Instr) (s t : State), exec i s = .next t →
    t.now = s.now ∧ t.taskNs = s.taskNs ∧ t.remain = s.remain ∧ t.inSlice = s.inSlice ∧
    t.sliceEnd = s.sliceEnd ∧ t.cfg = s.cfg ∧ t.mpc = s.mpc ∧ t.hostCalls = s.hostCalls ∧
    t.budget = s.budget ∧ t.reply = s.reply ∧ s.nextId ≤ t.nextId ∧ ∃ new, t.log = s.log ++ new

/-! ### The fatal state -/

/-- R47: reset leaves no fault, and once a fault is recorded no step moves it. That `exec` of an instruction in the fatal
state leaves the whole state as it is, is the model's choice (log entry 18). -/
def Obligations.FatalStateIsPermanent : Prop :=
  State.reset.fatal = none ∧
  ∀ (s : State) (info : FatalInfo), s.fatal = some info →
    (∀ s', step s = .next s' → s'.fatal = some info) ∧ ∀ i : Instr, exec i s = .next s

/-- The spec's decision D38: in the fatal state `execute` returns 0 and runs no cycle, `fire_due` fires nothing, and
`insert`, `remove` and `time_until_next` still act as they do in a running state. That a step with no host call pending is then a
turn of the host loop, which changes nothing but the reply, is the model's choice (log entry 9). -/
def Obligations.FatalStateRunsNothing : Prop :=
  ∀ (s : State) (info : FatalInfo), s.fatal = some info → s.inSlice = false → s.cfg.wellFormed = true →
    (∀ b, execute b s = .next { s with reply := some (.consumed 0) }) ∧
    fireDue s = { s with reply := some (.fired none) } ∧
    (s.hostCalls = [] → step s = .next { s with reply := some (.consumed 0) }) ∧
    (∀ d c a n, hostCall (.insert d c a n) s =
      .next { insertEvent d c a n s with reply := some (.inserted s.nextId) }) ∧
    (∀ id, hostCall (.remove id) s =
      .next { s with
        queue := s.queue.filter fun e => decide (e.id ≠ id)
        reply := some (.removed (s.queue.any fun e => decide (e.id = id))) }) ∧
    hostCall .timeUntilNext s =
      .next { s with reply := some (.untilNext (s.queue.head?.map fun e => e.time - s.now)) }

/-- The spec's decisions D37 and D43: in every way the core calls a collaborator (a slot, the tick hook, an activate
callback, a timer callback), a handler, described or open, writes nothing outside its contract, takes no bit of `NEXT2` away,
and only appends to LOG, lets NEXT_ID not fall and does not clear LEAVE. -/
def Obligations.HandlersKeepTheirContract : Prop :=
  (∀ (h : Handler) (field : Field) (phase : Phase) (code : Nat) (s : State),
    ContractKept s (runSlot (.registered h) field phase code s) ∧
    s.next2 &&& (runSlot (.registered h) field phase code s).next2 = s.next2 ∧
    OnlyGrows s (runSlot (.registered h) field phase code s)) ∧
  (∀ s : State, ContractKept s (tick s) ∧ s.next2 &&& (tick s).next2 = s.next2 ∧ OnlyGrows s (tick s)) ∧
  (∀ s : State, ContractKept s (callActivate s) ∧ s.next2 &&& (callActivate s).next2 = s.next2 ∧
    OnlyGrows s (callActivate s)) ∧
  (∀ (e : Event) (s : State), ContractKept s (runEvent e s) ∧ s.next2 &&& (runEvent e s).next2 = s.next2 ∧
    OnlyGrows s (runEvent e s))

/-- The spec's decision D38: a fatal call leaves the context before it, with the fault recorded: its own writes are
discarded. -/
def Obligations.FatalCallDiscardsItsWrites : Prop :=
  ∀ (h : Handler) (arg : Option Int) (s : State), s.fatal = none → (callHandler h arg s).fatal ≠ none →
    ∃ kind reason, (kind = FatalKind.collaboratorFatal ∨ kind = FatalKind.reentrantExecute) ∧
      callHandler h arg s =
        { s with fatal := some ⟨kind, s.curTask, s.mpc, none, none, none, s.now, reason⟩ }

/-! ### A microinstruction -/

/-- Every instruction, run with no collaborator acting in it, completes: the state it leaves is the closed form of steps
3 to 9, in which every element not named is as before. (All 58 rows.) -/
def Obligations.UndisturbedInstructionCompletes : Prop :=
  ∀ (i : Instr) (s : State), Undisturbed (microOf i) s → exec i s = .next (undisturbedResult (microOf i) s)

/-- Every instruction completes without a fault when the collaborators of its slots are described handlers that cannot
be fatal, whatever else they do. (All 58 rows.) -/
def Obligations.AnsweredInstructionCompletes : Prop :=
  ∀ (i : Instr) (s : State),
    s.fatal = none → isStalled (loadMir (microOf i) s) = false →
    slotAnswers (f2Slot s.cfg .early s.curTask (microOf i).f2) = true →
    slotAnswers (f2Slot s.cfg .late s.curTask (microOf i).f2) = true →
    slotAnswers (bsSlot s.cfg .early s.curTask (microOf i).bs) = true →
    slotAnswers (bsSlot s.cfg .late s.curTask (microOf i).bs) = true →
    (slotAnswers (f1Slot s.cfg .early s.curTask (microOf i).f1) = true ∨
      ((microOf i).f1 = f1Task ∧ s.wakeup ≠ 0#16 ∧
        isInert (f2Slot s.cfg .early s.curTask (microOf i).f2) = true ∧
        isInert (bsSlot s.cfg .early s.curTask (microOf i).bs) = true)) →
    (slotAnswers (f1Slot s.cfg .late s.curTask (microOf i).f1) = true ∨ (microOf i).f1 = f1Task) →
    (∀ h, activateOf s.cfg s.nextTask = some h → neverFatal h = true) →
    ∃ t, exec i s = .next t ∧ t.fatal = none ∧ t.mir = encode i ∧ t.mpc = s.mpc ∧
      t.curTask = s.nextTask ∧ t.nnTask = coreNnTask (microOf i) s ∧
      t.rdramPend = flagsLate .flagRdram (microOf i) s ∧
      t.wrtramPend = flagsLate .flagWrtram (microOf i) s ∧
      t.cramAddr = (if flagsLate .flagRdram (microOf i) s || flagsLate .flagWrtram (microOf i) s
        then t.alu else s.cramAddr)

/-- The spec's decision D27: a stalled microcycle takes its time and re-reads its word; nothing else changes. (With no
tick hook; a tick's own writes come before the fetch.) -/
def Obligations.StalledMicrocycleOnlyTakesTime : Prop :=
  ∀ (s : State) (w : MicroWord), s.cfg.tick = none → s.fatal = none →
    inStore s.cfg (fetchAddress s) = true → w = ucRead s (fetchAddress s).toNat →
    isStalled (loadMir (decodeMicro w) (fetch (account s))) = true →
    microcycle s = .next
      { s with
        now := s.now + s.cfg.cycleNs
        remain := s.remain - (s.cfg.cycleNs : Int)
        taskNs := s.taskNs.set s.curTask.val (s.taskNs[s.curTask.val] + s.cfg.cycleNs)
        mpc := fetchAddress s
        mir := w
        rsel := (decodeMicro w).rsel }

/-- R152: a slot that no collaborator registers and the core does not own is the stub; the stub records task, micro-PC,
field, phase and code; and an instruction whose F2 slot is the stub ends at step 5, before any ALU result. That the diagnostic's
reason is empty is the model's choice (log entry 16). -/
def Obligations.UndefinedSlotIsFatal : Prop :=
  (∀ (c : Config) (p : Phase) (k : Task) (code : BitVec 3),
    findRegistration c.fnBs p k code.toNat = none → bsSlot c p k code = .stub) ∧
  (∀ (c : Config) (p : Phase) (k : Task) (code : BitVec 4), coreF1 c p k code = none →
    findRegistration c.fnF1 p k code.toNat = none → f1Slot c p k code = .stub) ∧
  (∀ (c : Config) (p : Phase) (k : Task) (code : BitVec 4), coreF2 c code = none →
    findRegistration c.fnF2 p k code.toNat = none → f2Slot c p k code = .stub) ∧
  (∀ (field : Field) (p : Phase) (code : Nat) (s : State), runSlot .stub field p code s =
    { s with fatal := some ⟨.undefinedSlot, s.curTask, s.mpc, some field, some p, some code, s.now, ""⟩ }) ∧
  (∀ (i : Instr) (s : State), s.fatal = none → isStalled (loadMir (microOf i) s) = false →
    f2Slot s.cfg .early s.curTask (microOf i).f2 = .stub →
    ∃ t, exec i s = .next t ∧
      t.fatal = some ⟨.undefinedSlot, s.curTask, s.mpc, some .f2, some .early, some (microOf i).f2.toNat,
        s.now, ""⟩ ∧
      t.alu = s.alu ∧ t.aluc0 = s.aluc0 ∧ t.t = s.t ∧ t.l = s.l ∧ t.m = s.m ∧ t.r = s.r ∧
      t.curTask = s.curTask ∧ t.nextTask = s.nextTask ∧ t.nnTask = s.nnTask ∧ t.store = s.store ∧
      t.nextPc = ⟨s.mpc.page, (microOf i).next⟩)

/-- The order of the early phase (R272, vector V4.1): a register select that the F2 handler rewrites is the one the BS
handler of the same microinstruction reads with, while the constant address is the decoded one. -/
def Obligations.BsReadsWithTheRselOfF2 : Prop :=
  ∀ (i : Instr) (s : State) (v : Word),
    s.fatal = none → isStalled (loadMir (microOf i) s) = false →
    f2Slot s.cfg .early s.curTask (microOf i).f2 = .registered (oneAction (.setRsel (.imm v))) →
    bsSlot s.cfg .early s.curTask (microOf i).bs = .registered (oneAction (.driveBus .r)) →
    isInert (f1Slot s.cfg .early s.curTask (microOf i).f1) = true →
    isInert (bsSlot s.cfg .late s.curTask (microOf i).bs) = true →
    isInert (f1Slot s.cfg .late s.curTask (microOf i).f1) = true →
    isInert (f2Slot s.cfg .late s.curTask (microOf i).f2) = true →
    (∀ h, activateOf s.cfg s.nextTask = some h → h = inertHandler) →
    ∃ t, exec i s = .next t ∧ t.fatal = none ∧ t.rsel = v.setWidth 5 ∧
      t.bus = coreBus (microOf i) s &&& readR s (v.setWidth 5) ∧
      t.alu = (alu s.cfg t.bus s.t (microOf i).aluf s.skip).result

/-- The spec's decisions D25 and D35 (conflict C3): TASK, in every task, samples the highest-numbered requesting task in
its early phase and does nothing in its late one; with no request it is fatal. That the diagnostic's reason is then empty is the
model's choice (log entry 16). -/
def Obligations.TaskSamplesTheHighestRequester : Prop :=
  (∀ (c : Config) (p : Phase) (k : Task), f1Slot c p k 2#4 = .taskFunction) ∧
  (∀ s : State, s.wakeup ≠ 0#16 → ∃ k : Task, taskFunction .early s = { s with nnTask := k } ∧
    s.wakeup.getLsbD k.val = true ∧ ∀ j : Task, k < j → s.wakeup.getLsbD j.val = false) ∧
  (∀ s : State, s.wakeup = 0#16 → taskFunction .early s =
    { s with fatal := some ⟨.noTaskRequesting, s.curTask, s.mpc, some .f1, some .early, some 2, s.now, ""⟩ }) ∧
  (∀ s : State, taskFunction .late s = s)

/-- The spec's decision D34: step 9 passes the candidate on while the running task is the next task; else it saves the
running task's micro-PC and modifier, restores the next task's, and calls its activate callback. -/
def Obligations.SwitchCommitsOrDefers : Prop :=
  ∀ s : State, s.fatal = none →
    (s.curTask = s.nextTask → resolveSwitch s = { s with nextTask := s.nnTask }) ∧
    (s.curTask ≠ s.nextTask → resolveSwitch s = callActivate
      { s with
        tmpc := s.tmpc.set s.curTask.val s.nextPc
        tnext2 := s.tnext2.set s.curTask.val s.next2
        curTask := s.nextTask
        nextPc := s.tmpc[s.nextTask.val]
        next2 := s.tnext2[s.nextTask.val] })

/-- A task that lost the datapath resumes where it stopped: no instruction of another task touches its save area, and
switching back to it restores its micro-PC and modifier. -/
def Obligations.SwitchedTaskResumesWhereItStopped : Prop :=
  (∀ (i : Instr) (s t : State) (k : Task), exec i s = .next t → k ≠ s.curTask →
    t.tmpc[k.val] = s.tmpc[k.val] ∧ t.tnext2[k.val] = s.tnext2[k.val]) ∧
  (∀ (s u : State) (k : Task), k ≠ s.curTask → u.curTask ≠ s.curTask →
    u.tmpc[s.curTask.val] = (switchTo k s).tmpc[s.curTask.val] →
    u.tnext2[s.curTask.val] = (switchTo k s).tnext2[s.curTask.val] →
    (switchTo s.curTask u).curTask = s.curTask ∧
    (switchTo s.curTask u).nextPc = s.nextPc ∧ (switchTo s.curTask u).next2 = s.next2)

/-- Only a committed switch changes the running task, to the next task, at that task's saved micro-PC. For every state
and every collaborator. -/
def Obligations.OnlyTheSwitchChangesTheTask : Prop :=
  ∀ (i : Instr) (s t : State), exec i s = .next t → t.curTask ≠ s.curTask →
    t.curTask = s.nextTask ∧ t.nextTask = s.nextTask ∧ t.nextPc = s.tmpc[s.nextTask.val] ∧
    s.tnext2[s.nextTask.val] &&& t.next2 = s.tnext2[s.nextTask.val]

/-- The timeline of a task switch (R177): from the steady state, TASK makes the highest requester the next task, one
more instruction of the old task runs, and then the new task has the datapath at its saved micro-PC. -/
def Obligations.TaskSwitchComesOneInstructionLater : Prop :=
  ∀ (i j : Instr) (s : State) (b : Task),
    s.nextTask = s.curTask → s.nnTask = s.curTask →
    (microOf i).f1 = f1Task → (microOf j).f1 ≠ f1Task →
    highestRequester s.wakeup = some b → b ≠ s.curTask →
    Undisturbed (microOf i) s →
    Undisturbed (microOf j) (fetch (undisturbedResult (microOf i) s)) →
    ∃ s1 s2, exec i s = .next s1 ∧ s1.curTask = s.curTask ∧ s1.nextTask = b ∧
      exec j (fetch s1) = .next s2 ∧ s2.curTask = b ∧ s2.nextTask = b ∧ s2.nnTask = b ∧
      s2.nextPc = s.tmpc[b.val] ∧ s2.next2 = s.tnext2[b.val] ∧
      s2.tmpc[s.curTask.val] = ⟨s1.nextPc.page, (microOf j).next⟩

/-- The L and T commits of step 8 (the spec's decisions D40, D41 and D49): L, LALUC0 and in a RAM-related task M take the
ALU and its carry; T takes the ALU or the bus. -/
def Obligations.CommitLoadsLAndT : Prop :=
  ∀ (m : Micro) (s : State), s.fatal = none →
    commit m s =
      { s with
        l := if m.l then s.alu else s.l
        laluc0 := if m.l then s.aluc0 else s.laluc0
        m := if m.l = true ∧ s.curTask ∈ s.cfg.ramTasks then s.alu else s.m
        t := if m.t then (if s.tself then s.alu else s.bus) else s.t }

/-! ### The ALU -/

/-- R124 to R128, R136 and R137: the logic codes, each with its result, its carry and its T source, and what a T loaded
in the same microinstruction then gets. (For a configuration with the default table of codes.) -/
def Obligations.AluLogicCodes : Prop :=
  ∀ (c : Config) (a b : Word) (cin : Bool), c.aluTable = defaultAluTable → c.tsel = defaultTsel →
    (alu c a b 0 cin = ⟨a, c.logicCarry, true⟩ ∧
      alu c a b 1 cin = ⟨b, c.logicCarry, false⟩ ∧
      alu c a b 2 cin = ⟨a ||| b, c.logicCarry, true⟩ ∧
      alu c a b 3 cin = ⟨a &&& b, c.logicCarry, false⟩ ∧
      alu c a b 4 cin = ⟨a ^^^ b, c.logicCarry, false⟩ ∧
      alu c a b 12 cin = ⟨a &&& b, c.logicCarry, true⟩ ∧
      alu c a b 13 cin = ⟨a &&& ~~~b, c.logicCarry, false⟩) ∧
    ∀ s : State, s.bus = a →
      (commitT true (latchAlu (alu c a b 0 cin) s)).t = a ∧
      (commitT true (latchAlu (alu c a b 1 cin) s)).t = a ∧
      (commitT true (latchAlu (alu c a b 12 cin) s)).t = a &&& b

/-- R129 to R135: the arithmetic codes, each with its result modulo 2^16, exactly when it carries, and its T source. -/
def Obligations.AluArithmeticCodes : Prop :=
  ∀ (c : Config) (a b : Word) (cin : Bool), c.aluTable = defaultAluTable → c.tsel = defaultTsel →
    ((alu c a b 5 cin).result = a + 1#16 ∧ ((alu c a b 5 cin).carryOut = true ↔ a = 0xFFFF#16) ∧
      (alu c a b 5 cin).tsel = true) ∧
    ((alu c a b 6 cin).result = a - 1#16 ∧ ((alu c a b 6 cin).carryOut = true ↔ a ≠ 0#16) ∧
      (alu c a b 6 cin).tsel = true) ∧
    ((alu c a b 7 cin).result = a + b ∧ ((alu c a b 7 cin).carryOut = true ↔ 2 ^ 16 ≤ a.toNat + b.toNat) ∧
      (alu c a b 7 cin).tsel = false) ∧
    ((alu c a b 8 cin).result = a - b ∧ ((alu c a b 8 cin).carryOut = true ↔ b.toNat ≤ a.toNat) ∧
      (alu c a b 8 cin).tsel = false) ∧
    ((alu c a b 9 cin).result = a - b - 1#16 ∧ ((alu c a b 9 cin).carryOut = true ↔ b.toNat < a.toNat) ∧
      (alu c a b 9 cin).tsel = false) ∧
    ((alu c a b 10 cin).result = a + b + 1#16 ∧
      ((alu c a b 10 cin).carryOut = true ↔ 2 ^ 16 ≤ a.toNat + b.toNat + 1) ∧
      (alu c a b 10 cin).tsel = true) ∧
    ((alu c a b 11 cin).result = (if cin then a + 1#16 else a) ∧
      ((alu c a b 11 cin).carryOut = true ↔ cin = true ∧ a = 0xFFFF#16) ∧ (alu c a b 11 cin).tsel = true)

/-- The spec's decision D13: codes 016 and 017 under the default `UNDEF_ALU` give 0 with the fixed carry and T from the
bus, whatever the inputs; and whatever `UNDEF_ALU` is, they and no other code make a log entry. -/
def Obligations.UndefinedAluCodesAreLogged : Prop :=
  (∀ (c : Config) (k : Bool) (a b : Word) (cin : Bool), c.undefAlu = .busAndZero k →
    alu c a b 14 cin = ⟨0#16, k, false⟩ ∧ alu c a b 15 cin = ⟨0#16, k, false⟩) ∧
  (∀ s : State,
    (aluStep 14 s).log = s.log ++ [⟨.undefinedAluFunction 14, s.curTask, s.mpc, s.now⟩] ∧
    (aluStep 15 s).log = s.log ++ [⟨.undefinedAluFunction 15, s.curTask, s.mpc, s.now⟩] ∧
    ∀ code : BitVec 4, code ≠ 14 → code ≠ 15 → (aluStep code s).log = s.log)

/-- R140, the spec's decision D16: for every table of codes and every `UNDEF_ALU`, no code but 013 depends on the carry-in; and
013 does, with the default table. -/
def Obligations.CarryInMattersOnlyForSkip : Prop :=
  (∀ (c : Config) (a b : Word) (code : BitVec 4), code ≠ 11 → alu c a b code true = alu c a b code false) ∧
  ∀ (c : Config) (a b : Word), c.aluTable = defaultAluTable → (alu c a b 11 true).result ≠ (alu c a b 11 false).result

/-- Read as two's complement, the arithmetic codes give the correct signed results modulo 2^16 (R141). -/
def Obligations.AluIsTwosComplement : Prop :=
  ∀ (c : Config) (a b : Word) (cin : Bool), c.aluTable = defaultAluTable →
    (alu c a b 5 cin).result.toInt = (a.toInt + 1).bmod (2 ^ 16) ∧
    (alu c a b 6 cin).result.toInt = (a.toInt - 1).bmod (2 ^ 16) ∧
    (alu c a b 7 cin).result.toInt = (a.toInt + b.toInt).bmod (2 ^ 16) ∧
    (alu c a b 8 cin).result.toInt = (a.toInt - b.toInt).bmod (2 ^ 16) ∧
    (alu c a b 9 cin).result.toInt = (a.toInt - b.toInt - 1).bmod (2 ^ 16) ∧
    (alu c a b 10 cin).result.toInt = (a.toInt + b.toInt + 1).bmod (2 ^ 16) ∧
    (alu c a b 11 cin).result.toInt = (a.toInt + (if cin then 1 else 0)).bmod (2 ^ 16)

/-! ### The bus and the control RAM -/

/-- The spec's decision D18: the constant path ANDs the constant at RSEL x 8 + BS into the bus exactly when BS is 4 or
more or F1 or F2 is its constant code. -/
def Obligations.ConstantPathNarrowsTheBus : Prop :=
  ∀ (m : Micro) (s : State),
    ((4 ≤ m.bs.toNat ∨ m.f1 = s.cfg.f1Const ∨ m.f2 = s.cfg.f2Const) →
      constantPath m s =
        { s with bus := s.bus &&& Memory.read s.cfg.constRom (m.rsel.toNat * 8 + m.bs.toNat) }) ∧
    (m.bs.toNat < 4 → m.f1 ≠ s.cfg.f1Const → m.f2 ≠ s.cfg.f2Const → constantPath m s = s)

/-- The spec's decisions D23 and D24: a pending RDRAM ANDs the selected half of the word, inversion undone, into the bus;
with no target it leaves the bus and logs. For the default layout the target is what R105 gives (decisions D4 and D22): word
[9:0], half [10], ROM bit [11], page [15:12], RAM pages after the ROM pages. -/
def Obligations.RdramNarrowsTheBusOrLogs : Prop :=
  ∀ s : State,
    (s.rdramPend = false → rdramEffect s = s) ∧
    (∀ a, s.rdramPend = true → cramTarget s.cfg s.cramAddr = some a →
      rdramEffect s =
        { s with
          rdramPend := false
          bus := s.bus &&& (if s.cramAddr.getLsbD s.cfg.cramLayout.halfBit.val
            then (ucRead s a ^^^ s.cfg.ucInv).extractLsb' 16 16
            else (ucRead s a ^^^ s.cfg.ucInv).extractLsb' 0 16) }) ∧
    (s.rdramPend = true → cramTarget s.cfg s.cramAddr = none →
      rdramEffect s =
        { s with
          rdramPend := false
          log := s.log ++ [⟨.rdramOutOfRange s.cramAddr, s.curTask, s.mpc, s.now⟩] }) ∧
    (s.cfg.cramLayout = defaultCramLayout →
      s.cfg.cramLayout.halfBit.val = 10 ∧
      cramTarget s.cfg s.cramAddr =
        if s.cramAddr.toNat / 2048 % 2 = 0 then
          if s.cramAddr.toNat / 4096 < s.cfg.ramPages then
            some ((s.cfg.romPages + s.cramAddr.toNat / 4096) * 1024 + s.cramAddr.toNat % 1024)
          else none
        else
          if s.cramAddr.toNat / 4096 < s.cfg.romPages then
            some (s.cramAddr.toNat / 4096 * 1024 + s.cramAddr.toNat % 1024)
          else none)

/-- The spec's decisions D23 and D24: a pending WRTRAM writes L over the ALU, inverted, to a RAM target; to ROM or out of
range it writes nothing and logs. For the default layout the target is the RAM word R105 gives, and none for a ROM page or out
of range (decisions D4 and D22). -/
def Obligations.WrtramWritesOrLogs : Prop :=
  ∀ s : State,
    (s.wrtramPend = false → wrtramEffect s = s) ∧
    (∀ a, s.wrtramPend = true → wrtramTarget s.cfg s.cramAddr = some a →
      wrtramEffect s =
        { s with
          wrtramPend := false
          store := Memory.write s.store a ((s.l ++ s.alu) ^^^ s.cfg.ucInv) }) ∧
    (s.wrtramPend = true → wrtramTarget s.cfg s.cramAddr = none →
      wrtramEffect s =
        { s with
          wrtramPend := false
          log := s.log ++ [⟨.wrtramIgnored s.cramAddr, s.curTask, s.mpc, s.now⟩] }) ∧
    (s.cfg.cramLayout = defaultCramLayout →
      wrtramTarget s.cfg s.cramAddr =
        if s.cramAddr.toNat / 2048 % 2 = 0 ∧ s.cramAddr.toNat / 4096 < s.cfg.ramPages then
          some ((s.cfg.romPages + s.cramAddr.toNat / 4096) * 1024 + s.cramAddr.toNat % 1024)
        else none)

/-- The round trip (R111): after a WRTRAM to a RAM word, an RDRAM of that word gives back each half of what was written,
and a fetch sees it under the inversion mask. -/
def Obligations.WrtramThenRdramReadsBack : Prop :=
  ∀ (s u : State) (a : Nat), s.wrtramPend = true → wrtramTarget s.cfg s.cramAddr = some a →
    u.store = (wrtramEffect s).store → u.cfg = s.cfg → u.rdramPend = true →
    cramTarget u.cfg u.cramAddr = some a →
    (rdramEffect u).bus =
      u.bus &&& (if u.cramAddr.getLsbD u.cfg.cramLayout.halfBit.val then s.l else s.alu) ∧
    ucRead u a = (s.l ++ s.alu) ^^^ s.cfg.ucInv

/-- R107 and R108: in a task of RAM_TASKS, RDRAM and WRTRAM do nothing early and late flag their request with the ALU as
its address; in another task the codes are that task's own slots; two requests in a row are allowed. -/
def Obligations.ControlRamCodesFlagTheirRequests : Prop :=
  (∀ (c : Config) (k : Task), f1CodesOk c = true → k ∈ c.ramTasks →
    f1Slot c .early k c.f1Rdram = .noEffect ∧ f1Slot c .late k c.f1Rdram = .flagRdram ∧
    f1Slot c .early k c.f1Wrtram = .noEffect ∧ f1Slot c .late k c.f1Wrtram = .flagWrtram) ∧
  (∀ (c : Config) (k : Task) (p : Phase), f1CodesOk c = true → k ∉ c.ramTasks →
    f1Slot c p k c.f1Rdram = collaboratorSlot c.fnF1 p k c.f1Rdram.toNat ∧
    f1Slot c p k c.f1Wrtram = collaboratorSlot c.fnF1 p k c.f1Wrtram.toNat) ∧
  (∀ (field : Field) (code : Nat) (s : State),
    runSlot .flagRdram field .late code s = { s with rdramPend := true, cramAddr := s.alu } ∧
    runSlot .flagWrtram field .late code s = { s with wrtramPend := true, cramAddr := s.alu }) ∧
  (∀ (i : Instr) (s : State), Undisturbed (microOf i) s → f1CodesOk s.cfg = true →
    s.curTask ∈ s.cfg.ramTasks →
    ((microOf i).f1 = s.cfg.f1Rdram → ∃ t, exec i s = .next t ∧ t.rdramPend = true ∧ t.wrtramPend = false ∧
      t.cramAddr = t.alu) ∧
    ((microOf i).f1 = s.cfg.f1Wrtram → ∃ t, exec i s = .next t ∧ t.wrtramPend = true ∧ t.rdramPend = false ∧
      t.cramAddr = t.alu))

/-! ### Fetch and next address -/

/-- R101: the fetch address is the base's page with the OR of the base's offset and the modifier; fetch writes MPC, MIR
and RSEL and nothing else, so a second fetch reads the same word; no fault is possible in a state of a run; and a
microcycle does it. (The last clause for a configuration with no tick hook, which could change the modifier first.) -/
def Obligations.FetchJoinsBaseAndModifier : Prop :=
  (∀ s : State, (fetchAddress s).toNat / 1024 = s.nextPc.toNat / 1024 ∧
    (fetchAddress s).toNat % 1024 = (s.nextPc.toNat % 1024) ||| s.next2.toNat) ∧
  (∀ (s : State) (w : MicroWord), w = ucRead s (fetchAddress s).toNat →
    loadMir (decodeMicro w) (fetch s) = { s with mpc := fetchAddress s, mir := w, rsel := w.extractLsb' 27 5 } ∧
    fetchAddress (loadMir (decodeMicro w) (fetch s)) = fetchAddress s) ∧
  (∀ s : State, MachineInv s →
    inStore s.cfg (fetchAddress s) = true ∧ (fetchAddress s).toNat < (s.cfg.romPages + s.cfg.ramPages) * 1024) ∧
  (∀ s : State, s.cfg.tick = none → s.fatal = none → inStore s.cfg (fetchAddress s) = true →
    ∃ t, microcycle s = .next t ∧ t.mpc = fetchAddress s ∧ t.mir = ucRead s (fetchAddress s).toNat)

/-- R102: after the stall check and before step 5 the base becomes MPC's page with the NEXT field and the modifier 0, once
for an instruction that is not stalled; a stalled one leaves both. What the instruction leaves then points its task at
its NEXT field, with any collaborator. -/
def Obligations.AdvanceFollowsTheNextField : Prop :=
  (∀ (n : PageOffset) (s : State), advance n s = { s with nextPc := ⟨s.mpc.page, n⟩, next2 := 0#10 } ∧
    (advance n s).nextPc.toNat = s.mpc.toNat / 1024 * 1024 + n.toNat) ∧
  (∀ (i : Instr) (s : State), s.fatal = none → isStalled (loadMir (microOf i) s) = false →
    exec i s = .next (executeSteps (microOf i) (advance (microOf i).next (loadMir (microOf i) s)))) ∧
  (∀ (i : Instr) (s t : State), s.fatal = none → exec i s = .next t →
    (isStalled (loadMir (microOf i) s) = true → t.nextPc = s.nextPc ∧ t.next2 = s.next2) ∧
    (isStalled (loadMir (microOf i) s) = false → t.curTask = s.curTask →
      t.nextPc = ⟨s.mpc.page, (microOf i).next⟩) ∧
    (isStalled (loadMir (microOf i) s) = false → t.curTask ≠ s.curTask →
      t.tmpc[s.curTask.val] = ⟨s.mpc.page, (microOf i).next⟩))

/-- Page confinement (R103): a task's page stays fixed while it runs. For every state and every collaborator. -/
def Obligations.PageIsFixedWhileATaskRuns : Prop :=
  ∀ s t : State, microcycle s = .next t → t.curTask = s.curTask → t.nextPc.page = s.nextPc.page

/-! ### Time and slices -/

/-- The spec's decisions D10 and D39: every microcycle, stalled or fatal ones included, charges one cycle to the budget,
to the simulated time and to the running task, and to no other task. -/
def Obligations.EveryMicrocycleIsCharged : Prop :=
  ∀ s t : State, microcycle s = .next t →
    t.now = s.now + s.cfg.cycleNs ∧ t.remain = s.remain - (s.cfg.cycleNs : Int) ∧
    ∀ k : Task, t.taskNs[k.val] = s.taskNs[k.val] + (if k = s.curTask then s.cfg.cycleNs else 0)

/-- The tasks' elapsed times add up to the simulated time, in every state of a run. -/
def Obligations.TaskTimesAddUpToNow : Prop :=
  totalTaskNs State.reset = State.reset.now ∧
  ∀ s s' : State, step s = .next s' → totalTaskNs s = s.now → totalTaskNs s' = s'.now

/-- Simulated time, seen between steps, never goes back (R225). -/
def Obligations.TimeNeverGoesBack : Prop :=
  ∀ s s' : State, step s = .next s' → s.now ≤ s'.now

/-- The bounds on the consumed time (R203): `execute` returns a whole number of cycles, by which NOW has grown; the last
cycle overruns the budget by less than one cycle; and unless the slice was cut short the budget is used up. -/
def Obligations.ExecuteConsumesWholeCycles : Prop :=
  ∀ (s : State) (b : Nat), MachineInv s → s.inSlice = false → s.fatal = none →
    ∃ (t : State) (n : Nat), execute b s = .next t ∧ t.inSlice = false ∧
      t.reply = some (.consumed (n * s.cfg.cycleNs)) ∧ t.now = s.now + n * s.cfg.cycleNs ∧
      (b = 0 → n = 0) ∧ (0 < b → 0 < n) ∧ n * s.cfg.cycleNs < b + s.cfg.cycleNs ∧
      (t.leave = false → t.fatal = none → b ≤ n * s.cfg.cycleNs)

/-- Single step (R259): `execute(b)` with 0 < b ≤ CYCLE_NS runs exactly one microcycle. -/
def Obligations.ShortExecuteRunsOneMicrocycle : Prop :=
  ∀ (s t : State) (b : Nat), s.fatal = none → 0 < b → b ≤ s.cfg.cycleNs →
    microcycle (beginSlice b s) = .next t → execute b s = .next (endSlice t)

/-- The whole call `execute(budget)` of R190 is what the machine's steps do from the host's call on. How the call is cut
into steps is the model's choice (log entry 9). -/
def Obligations.StepsOfASliceAreExecute : Prop :=
  ∀ (s : State) (b : Nat) (rest : List HostCall), s.cfg.wellFormed = true → s.inSlice = false →
    s.hostCalls = .execute b :: rest →
    ∃ n, Host.Core.run Sys2Proof.core n s = execute b { s with hostCalls := rest }

/-- The host loop of D42 fires a due event before it runs a slice. That a step with no host call pending is a turn of that loop
is the model's choice (log entry 9). -/
def Obligations.DueEventsFireBeforeASlice : Prop :=
  ∀ (s : State) (e : Event), s.cfg.wellFormed = true → s.inSlice = false → s.hostCalls = [] →
    dueEvent s = some e →
    ∃ t, step s = .next t ∧ t = fireDue s ∧ t.reply = some (.fired (some e.id)) ∧ t.inSlice = false

/-! ### The timer queue -/

/-- Insert, remove, firing an event and running an instruction, whatever its collaborators insert and remove, keep the
queue in ascending (time, id) order with every id handed out. -/
def Obligations.TimerKeepsItsOrder : Prop :=
  ∀ s : State, TimerOk s →
    (∀ d c a n, TimerOk (insertEvent d c a n s)) ∧ (∀ id, TimerOk (removeEvent id s)) ∧ TimerOk (fireDue s) ∧
    ∀ (i : Instr) (t : State), exec i s = .next t → TimerOk t

/-- Insert (the spec's decisions D30 and D45) puts exactly one event, due `delay` from NOW, after every event that fires no
later and before every later one, and hands out the next id. -/
def Obligations.InsertPutsOneEventInItsPlace : Prop :=
  ∀ (s : State) (d c : Nat) (a : Int) (n : String), TimerOk s →
    (insertEvent d c a n s).nextId = s.nextId + 1 ∧
    ∃ early late, s.queue = early ++ late ∧
      (insertEvent d c a n s).queue = early ++ [⟨s.nextId, s.now + d, c, a, n⟩] ++ late ∧
      (∀ e ∈ early, e.time ≤ s.now + d) ∧ ∀ e ∈ late, s.now + d < e.time

/-- The leave check (conflict C4, decision D29): an insert sets LEAVE exactly when it falls inside the running slice. -/
def Obligations.InsertInsideASliceSetsLeave : Prop :=
  ∀ (s : State) (d c : Nat) (a : Int) (n : String),
    ((insertEvent d c a n s).leave = true ↔ s.leave = true ∨ (s.inSlice = true ∧ s.now + d ≤ s.sliceEnd))

/-- R219: `remove` returns whether the id was queued; a queued event is gone, every other stays in its place, LEAVE is not
touched, and a second remove returns false and changes nothing. -/
def Obligations.RemoveTakesTheEventOut : Prop :=
  ∀ (s : State) (id : Nat),
    hostCall (.remove id) s = .next { removeEvent id s with reply := some (.removed (isQueued s id)) } ∧
    (isQueued s id = true ↔ ∃ e ∈ s.queue, e.id = id) ∧
    (∀ e, e ∈ (removeEvent id s).queue ↔ e ∈ s.queue ∧ e.id ≠ id) ∧
    (removeEvent id s).queue.Sublist s.queue ∧
    removeEvent id s = { s with queue := (removeEvent id s).queue } ∧
    (isQueued s id = false → removeEvent id s = s) ∧
    isQueued (removeEvent id s) id = false ∧ removeEvent id (removeEvent id s) = removeEvent id s

/-- `fire_due` fires the least queued event in (time, id), never one after NOW, and none only when none is due; NOW is
what it was afterwards (R223). -/
def Obligations.FireDueTakesTheLeastEvent : Prop :=
  ∀ s : State, TimerOk s → s.fatal = none →
    (∀ e, dueEvent s = some e → e ∈ s.queue ∧ e.time ≤ s.now ∧ ∀ f ∈ s.queue, f = e ∨ eventBefore e f) ∧
    (dueEvent s = none ↔ ∀ e ∈ s.queue, s.now < e.time) ∧
    (fireDue s).now = s.now ∧ (fireDue s).reply = some (.fired ((dueEvent s).map (·.id)))

/-- A timer callback runs at its event's own time on the queue without the event (conflict C6, decision D32), and NOW is restored
afterwards: for every callback, described or open. Of callbacks that do one thing: what one inserts is due from the event's time
and outside a slice sets no LEAVE; one that removes its own id finds no event, where no other has that id; and what one logs
carries the event's time, which is the model's reading of R220 and R244 (log entry 19). -/
def Obligations.CallbackSeesItsOwnTime : Prop :=
  ∀ (s : State) (e : Event), dueEvent s = some e →
    (∃ rest, s.queue = e :: rest ∧
      fireDue s =
        { callHandler (callbackOf s.cfg e.callback) (some e.arg) { s with queue := rest, now := e.time } with
          now := s.now
          reply := some (.fired (some e.id)) }) ∧
    (∀ (d c : Nat) (a : Int) (n : String), callbackOf s.cfg e.callback = oneAction (.insert d c a n) →
      s.inSlice = false →
      fireDue s =
        { s with
          queue := enqueue s.queue.tail ⟨s.nextId, e.time + d, c, a, n⟩
          nextId := s.nextId + 1
          reply := some (.fired (some e.id)) }) ∧
    (callbackOf s.cfg e.callback = oneAction (.remove e.id) → (∀ f ∈ s.queue.tail, f.id ≠ e.id) →
      fireDue s = { s with queue := s.queue.tail, reply := some (.fired (some e.id)) }) ∧
    (∀ text : String, callbackOf s.cfg e.callback = oneAction (.logAnomaly text) →
      fireDue s =
        { s with
          queue := s.queue.tail
          log := s.log ++ [⟨.collaboratorAnomaly text, s.curTask, s.mpc, e.time⟩]
          reply := some (.fired (some e.id)) })

/-- `time_until_next` (the spec's decision D31): none for an empty queue, else the time to the head, 0 if it is due. -/
def Obligations.TimeUntilNextLooksAtTheHead : Prop :=
  ∀ s : State,
    (s.queue = [] → timeUntilNext s = none) ∧
    ∀ e rest, s.queue = e :: rest →
      timeUntilNext s = some (if s.now < e.time then e.time - s.now else 0)

/-! ### Registers and reset -/

/-- The register files a handler writes: R by the live select, S by bank and select, BANKSEL by task. Each write reads back
and leaves every other register of its file. -/
def Obligations.RegisterFilesReadBack : Prop :=
  ∀ (s : State) (v : Word),
    (∀ i, readR (applyAction s (.setR (.imm v))) i = if i = s.rsel then v else readR s i) ∧
    (∀ b, b < s.sBanks.length → ∀ b' i,
      readS (applyAction s (.setS b (.imm v))) b' i = if b' = b ∧ i = s.rsel then v else readS s b' i) ∧
    (∀ (k : Task) (n : Nat) (j : Task),
      (applyAction s (.setBankSel k n)).bankSel[j.val] = if j = k then n else s.bankSel[j.val])

/-- What reset leaves (the spec's decisions D6, D7, D8, D10, D30 and D51): task 0 runs, at its reset micro-address, and alone
requests; the bus is all ones; every other element is zero, false, absent or empty. -/
def Obligations.ResetLeavesTheSpecsValues : Prop :=
  ∀ (c : Config) (image : Memory 32) (k : Task) (i : RegSel),
    let s := State.init c image
    (s.curTask = 0 ∧ s.nextTask = 0 ∧ s.nnTask = 0 ∧ s.wakeup = 0x0001#16) ∧
    (s.mpc = MicroAddr.ofNat c.resetMpc[0] ∧ s.nextPc = MicroAddr.ofNat c.resetMpc[0] ∧ s.next2 = 0#10) ∧
    (s.tmpc[k.val] = MicroAddr.ofNat c.resetMpc[k.val] ∧ (s.tmpc[k.val]).toNat = c.resetMpc[k.val] ∧
      s.tnext2[k.val] = 0#10) ∧
    (readR s i = 0#16 ∧ s.sBanks.length = c.nsBank ∧ ∀ b, b < c.nsBank → readS s b i = 0#16) ∧
    (s.t = 0#16 ∧ s.l = 0#16 ∧ s.m = 0#16 ∧ s.alu = 0#16 ∧ s.bus = 0xFFFF#16 ∧ s.mir = 0#32 ∧ s.rsel = 0#5) ∧
    (s.aluc0 = false ∧ s.laluc0 = false ∧ s.skip = false ∧ s.tself = false) ∧
    (s.rdramPend = false ∧ s.wrtramPend = false ∧ s.cramAddr = 0#16) ∧
    (s.bankSel[k.val] = 0 ∧ s.taskNs[k.val] = 0 ∧ s.now = 0) ∧
    (s.inSlice = false ∧ s.sliceEnd = 0 ∧ s.remain = 0 ∧ s.leave = false) ∧
    (s.queue = [] ∧ s.nextId = 1 ∧ s.fatal = none ∧ s.log = [] ∧ s.store = image)

/-- The log never changes execution (R244): with described collaborators, an instruction run with another log leaves the
same state but for the log, and appends the same entries. -/
def Obligations.LogNeverChangesAnInstruction : Prop :=
  ∀ (i : Instr) (s : State) (g : List Anomaly), describedConfig s.cfg = true →
    ∃ (t : State) (new : List Anomaly), exec i s = .next t ∧ t.log = s.log ++ new ∧
      exec i { s with log := g } = .next { t with log := g ++ new }

/-- Later execution depends on the context alone (R12, R52, R207): two states of one context, whatever host calls, budget and
reply they hold (the model's own fields, log entry 4), run every instruction, every microcycle, a whole `execute` and `fire_due`
to one context again, with the same results. For every collaborator, described or open. -/
def Obligations.ContextDecidesExecution : Prop :=
  ∀ s s' : State, contextOf s = contextOf s' →
    (∀ (i : Instr) (t : State), exec i s = .next t → ∃ t', exec i s' = .next t' ∧ contextOf t = contextOf t') ∧
    (∀ t : State, microcycle s = .next t → ∃ t', microcycle s' = .next t' ∧ contextOf t = contextOf t') ∧
    (contextOf (fireDue s) = contextOf (fireDue s') ∧ (fireDue s).reply = (fireDue s').reply) ∧
    (MachineInv s → s.inSlice = false → ∀ (b : Nat) (t : State), execute b s = .next t →
      ∃ t', execute b s' = .next t' ∧ contextOf t = contextOf t' ∧ t.reply = t'.reply)
end

