-- ==== Sys2Proof/Laws/Decode.lean ====
section
/-! SUPPORT. The laws of decoding: the fields and the word determine each other, and the row that names a
microinstruction carries its fields. -/

namespace Sys2Proof

/-! ### The fields of a word -/

/-- The bits of a placed field. -/
theorem getLsbD_placeField {n : Nat} (v : BitVec n) (lo i : Nat) :
    (placeField v lo).getLsbD i = (decide (i < 32) && !decide (i < lo) && v.getLsbD (i - lo)) := by
  simp only [placeField, BitVec.getLsbD_shiftLeft, BitVec.getLsbD_setWidth]
  grind

/-- Every bit of a composed word, in terms of the fields. -/
theorem getLsbD_microWord (m : Micro) (i : Nat) : (microWord m).getLsbD i =
    ((placeField m.rsel 27).getLsbD i || (placeField m.aluf 23).getLsbD i || (placeField m.bs 20).getLsbD i ||
      (placeField m.f1 16).getLsbD i || (placeField m.f2 12).getLsbD i ||
      (placeField (BitVec.ofBool m.t) 11).getLsbD i || (placeField (BitVec.ofBool m.l) 10).getLsbD i ||
      (placeField m.next 0).getLsbD i) := by
  simp only [microWord, BitVec.getLsbD_or]

theorem microWord_rsel (m : Micro) : wordField (microWord m) 27 5 = m.rsel := by
  ext i hi
  simp only [wordField, BitVec.getElem_extractLsb', getLsbD_microWord, getLsbD_placeField]
  interval_cases i <;> simp

theorem microWord_aluf (m : Micro) : wordField (microWord m) 23 4 = m.aluf := by
  ext i hi
  simp only [wordField, BitVec.getElem_extractLsb', getLsbD_microWord, getLsbD_placeField]
  interval_cases i <;> simp

theorem microWord_bs (m : Micro) : wordField (microWord m) 20 3 = m.bs := by
  ext i hi
  simp only [wordField, BitVec.getElem_extractLsb', getLsbD_microWord, getLsbD_placeField]
  interval_cases i <;> simp

theorem microWord_f1 (m : Micro) : wordField (microWord m) 16 4 = m.f1 := by
  ext i hi
  simp only [wordField, BitVec.getElem_extractLsb', getLsbD_microWord, getLsbD_placeField]
  interval_cases i <;> simp

theorem microWord_f2 (m : Micro) : wordField (microWord m) 12 4 = m.f2 := by
  ext i hi
  simp only [wordField, BitVec.getElem_extractLsb', getLsbD_microWord, getLsbD_placeField]
  interval_cases i <;> simp

theorem microWord_next (m : Micro) : wordField (microWord m) 0 10 = m.next := by
  ext i hi
  simp only [wordField, BitVec.getElem_extractLsb', getLsbD_microWord, getLsbD_placeField]
  interval_cases i <;> simp

theorem microWord_t (m : Micro) : (microWord m).getLsbD 11 = m.t := by
  rw [getLsbD_microWord]
  simp only [getLsbD_placeField]
  simp

theorem microWord_l (m : Micro) : (microWord m).getLsbD 10 = m.l := by
  rw [getLsbD_microWord]
  simp only [getLsbD_placeField]
  simp

/-- Cutting the fields out of a composed word gives them back. -/
@[simp] theorem decodeMicro_microWord (m : Micro) : decodeMicro (microWord m) = m := by
  simp only [decodeMicro, microWord_rsel, microWord_aluf, microWord_bs, microWord_f1, microWord_f2, microWord_t,
    microWord_l, microWord_next]

/-- Composing the fields of a word gives it back: the eight fields are all of its bits. -/
@[simp] theorem microWord_decodeMicro (w : MicroWord) : microWord (decodeMicro w) = w := by
  apply BitVec.eq_of_getLsbD_eq
  intro i hi
  simp only [getLsbD_microWord, getLsbD_placeField, decodeMicro, wordField]
  interval_cases i <;> simp

theorem microWord_injective {m m' : Micro} (h : microWord m = microWord m') : m = m' := by
  rw [← decodeMicro_microWord m, h, decodeMicro_microWord]

/-! ### Naming -/

theorem microOf_nameByAlu (m : Micro) : microOf (nameByAlu m) = m := by
  obtain ⟨rsel, aluf, bs, f1, f2, t, l, next⟩ := m
  obtain ⟨⟨k, hk⟩⟩ := aluf
  have : k < 16 := hk
  interval_cases k <;> rfl

theorem microOf_nameByBs (m : Micro) : microOf (nameByBs m) = m := by
  obtain ⟨rsel, aluf, bs, f1, f2, t, l, next⟩ := m
  obtain ⟨⟨k, hk⟩⟩ := bs
  have : k < 8 := hk
  interval_cases k <;> rfl

theorem microOf_nameByF1 (m : Micro) : microOf (nameByF1 m) = m := by
  obtain ⟨rsel, aluf, bs, f1, f2, t, l, next⟩ := m
  obtain ⟨⟨k, hk⟩⟩ := f1
  have : k < 16 := hk
  interval_cases k <;> rfl

theorem microOf_nameByF2 (m : Micro) : microOf (nameByF2 m) = m := by
  obtain ⟨rsel, aluf, bs, f1, f2, t, l, next⟩ := m
  obtain ⟨⟨k, hk⟩⟩ := f2
  have : k < 16 := hk
  interval_cases k <;> rfl

theorem namingFamily_loadT {m : Micro} (h : namingFamily m = .loadT) : m.t = true := by
  unfold namingFamily at h
  grind

theorem namingFamily_loadL {m : Micro} (h : namingFamily m = .loadL) : m.l = true := by
  unfold namingFamily at h
  grind

/-- The instruction that names a microinstruction carries its fields. -/
@[simp] theorem microOf_nameMicro (m : Micro) : microOf (nameMicro m) = m := by
  unfold nameMicro
  split
  · exact microOf_nameByAlu m
  · exact microOf_nameByBs m
  · exact microOf_nameByF1 m
  · exact microOf_nameByF2 m
  · rename_i h
    rw [microOf, ← namingFamily_loadT h]
  · rename_i h
    rw [microOf, ← namingFamily_loadL h]

/-- The fields of a decoded word are the fields cut out of it. -/
theorem microOf_decode (w : MicroWord) : microOf (decode w) = decodeMicro w := microOf_nameMicro _

end Sys2Proof
end

