-- ==== Sys2Proof/Laws/Memory.lean ====
section
/-! SUPPORT. The laws of a store: a read after a write gives the word written, every other word is as before, and
every operation keeps the canonical form and the bound of the addresses. -/

namespace Sys2Proof.Machine

section
variable {n : Nat} (m : Memory n)

@[simp] theorem Memory.read_nil (a : Nat) : Memory.read ([] : Memory n) a = unlistedWord n := rfl

theorem Memory.read_cons (c b : Nat) (u : BitVec n) (rest : Memory n) :
    Memory.read ((c, u) :: rest) b = if b = c then u else Memory.read rest b := rfl

theorem Memory.read_put (a b : Nat) (v : BitVec n) :
    Memory.read (Memory.put m a v) b = if b = a then v else Memory.read m b := by
  induction m with
  | nil => rfl
  | cons e rest ih =>
    obtain ⟨c, u⟩ := e
    by_cases h1 : a < c
    · simp only [Memory.put, if_pos h1, Memory.read_cons]
    · by_cases h2 : a = c
      · simp only [Memory.put, if_neg h1, if_pos h2, Memory.read_cons]
        grind
      · simp only [Memory.put, if_neg h1, if_neg h2, Memory.read_cons, ih]
        grind

theorem Memory.read_erase (a b : Nat) :
    Memory.read (Memory.erase m a) b = if b = a then unlistedWord n else Memory.read m b := by
  induction m with
  | nil => simp [Memory.erase, Memory.read]
  | cons e rest ih =>
    obtain ⟨c, u⟩ := e
    simp only [Memory.erase] at ih ⊢
    by_cases hc : c = a
    · subst hc
      by_cases hb : b = c <;> simp_all [Memory.read_cons]
    · by_cases hb : b = c <;> simp_all [Memory.read_cons]

/-- What a read gives after a write. -/
theorem Memory.read_write (a b : Nat) (v : BitVec n) :
    Memory.read (Memory.write m a v) b = if b = a then v else Memory.read m b := by
  unfold Memory.write
  split_ifs with hv hb hb
  · rw [Memory.read_erase, if_pos hb, hv]
  · rw [Memory.read_erase, if_neg hb]
  · rw [Memory.read_put, if_pos hb]
  · rw [Memory.read_put, if_neg hb]

@[simp] theorem Memory.read_write_same (a : Nat) (v : BitVec n) :
    Memory.read (Memory.write m a v) a = v := by simp [Memory.read_write]

theorem Memory.read_write_other {a b : Nat} (v : BitVec n) (h : b ≠ a) :
    Memory.read (Memory.write m a v) b = Memory.read m b := by simp [Memory.read_write, h]

theorem Memory.mem_put {a : Nat} {v : BitVec n} {e : Nat × BitVec n} (h : e ∈ Memory.put m a v) :
    e = (a, v) ∨ e ∈ m := by
  induction m with
  | nil => simpa [Memory.put] using h
  | cons f rest ih =>
    obtain ⟨c, u⟩ := f
    simp only [Memory.put] at h
    split_ifs at h with h1 h2
    · simpa using h
    · rcases List.mem_cons.mp h with h | h
      · exact .inl h
      · exact .inr (List.mem_cons_of_mem _ h)
    · rcases List.mem_cons.mp h with h | h
      · exact .inr (h ▸ List.mem_cons_self)
      · rcases ih h with h | h
        · exact .inl h
        · exact .inr (List.mem_cons_of_mem _ h)

theorem Memory.wf_cons (a : Nat) (v : BitVec n) (rest : Memory n) :
    Memory.wf ((a, v) :: rest) = true ↔
      v ≠ unlistedWord n ∧ (∀ e ∈ rest, a < e.1) ∧ Memory.wf rest = true := by
  simp [Memory.wf, and_assoc]

theorem Memory.wf_put (a : Nat) {v : BitVec n} (hv : v ≠ unlistedWord n) (h : Memory.wf m = true) :
    Memory.wf (Memory.put m a v) = true := by
  induction m with
  | nil => simpa [Memory.put, Memory.wf_cons, Memory.wf] using hv
  | cons f rest ih =>
    obtain ⟨c, u⟩ := f
    have hc := (Memory.wf_cons c u rest).mp h
    simp only [Memory.put]
    split_ifs with h1 h2
    · refine (Memory.wf_cons ..).mpr ⟨hv, fun e he => ?_, h⟩
      rcases List.mem_cons.mp he with rfl | he
      · exact h1
      · exact h1.trans (hc.2.1 e he)
    · exact (Memory.wf_cons ..).mpr ⟨hv, h2 ▸ hc.2.1, hc.2.2⟩
    · refine (Memory.wf_cons ..).mpr ⟨hc.1, fun e he => ?_, ih hc.2.2⟩
      rcases Memory.mem_put rest he with rfl | he
      · exact lt_of_le_of_ne (not_lt.mp h1) (fun heq => h2 heq.symm)
      · exact hc.2.1 e he

theorem Memory.wf_erase (a : Nat) (h : Memory.wf m = true) : Memory.wf (Memory.erase m a) = true := by
  induction m with
  | nil => simpa [Memory.erase] using h
  | cons f rest ih =>
    obtain ⟨c, u⟩ := f
    have hc := (Memory.wf_cons c u rest).mp h
    unfold Memory.erase at ih ⊢
    rw [List.filter_cons]
    split_ifs
    · exact (Memory.wf_cons ..).mpr ⟨hc.1, fun e he => hc.2.1 e (List.mem_filter.mp he).1, ih hc.2.2⟩
    · exact ih hc.2.2

/-- A write keeps the canonical form. -/
theorem Memory.wf_write (a : Nat) (v : BitVec n) (h : Memory.wf m = true) :
    Memory.wf (Memory.write m a v) = true := by
  unfold Memory.write
  split_ifs with hv
  · exact Memory.wf_erase m a h
  · exact Memory.wf_put m a hv h

/-- A write below a bound keeps every address below it. -/
theorem Memory.below_write {a bound : Nat} (v : BitVec n) (ha : a < bound)
    (h : Memory.below m bound = true) : Memory.below (Memory.write m a v) bound = true := by
  simp only [Memory.below, List.all_eq_true, decide_eq_true_eq] at h ⊢
  intro e he
  unfold Memory.write at he
  split_ifs at he
  · exact h e (List.mem_filter.mp he).1
  · rcases Memory.mem_put m he with rfl | he
    · exact ha
    · exact h e he

end

end Sys2Proof.Machine
end

