-- ==== Sys2Proof/Laws/State.lean ====
section
/-! SUPPORT. The small lemmas of the state's updates: for each named update, what every field of the state is after it. All
true by definition. -/

namespace Sys2Proof.Machine

section
variable (s : State) (info : FatalInfo)

@[simp] theorem raiseFatal_r : (raiseFatal info s).r = s.r := rfl
@[simp] theorem raiseFatal_sBanks : (raiseFatal info s).sBanks = s.sBanks := rfl
@[simp] theorem raiseFatal_t : (raiseFatal info s).t = s.t := rfl
@[simp] theorem raiseFatal_l : (raiseFatal info s).l = s.l := rfl
@[simp] theorem raiseFatal_m : (raiseFatal info s).m = s.m := rfl
@[simp] theorem raiseFatal_alu : (raiseFatal info s).alu = s.alu := rfl
@[simp] theorem raiseFatal_aluc0 : (raiseFatal info s).aluc0 = s.aluc0 := rfl
@[simp] theorem raiseFatal_laluc0 : (raiseFatal info s).laluc0 = s.laluc0 := rfl
@[simp] theorem raiseFatal_bus : (raiseFatal info s).bus = s.bus := rfl
@[simp] theorem raiseFatal_skip : (raiseFatal info s).skip = s.skip := rfl
@[simp] theorem raiseFatal_tself : (raiseFatal info s).tself = s.tself := rfl
@[simp] theorem raiseFatal_mir : (raiseFatal info s).mir = s.mir := rfl
@[simp] theorem raiseFatal_rsel : (raiseFatal info s).rsel = s.rsel := rfl
@[simp] theorem raiseFatal_mpc : (raiseFatal info s).mpc = s.mpc := rfl
@[simp] theorem raiseFatal_nextPc : (raiseFatal info s).nextPc = s.nextPc := rfl
@[simp] theorem raiseFatal_next2 : (raiseFatal info s).next2 = s.next2 := rfl
@[simp] theorem raiseFatal_tmpc : (raiseFatal info s).tmpc = s.tmpc := rfl
@[simp] theorem raiseFatal_tnext2 : (raiseFatal info s).tnext2 = s.tnext2 := rfl
@[simp] theorem raiseFatal_curTask : (raiseFatal info s).curTask = s.curTask := rfl
@[simp] theorem raiseFatal_nextTask : (raiseFatal info s).nextTask = s.nextTask := rfl
@[simp] theorem raiseFatal_nnTask : (raiseFatal info s).nnTask = s.nnTask := rfl
@[simp] theorem raiseFatal_wakeup : (raiseFatal info s).wakeup = s.wakeup := rfl
@[simp] theorem raiseFatal_bankSel : (raiseFatal info s).bankSel = s.bankSel := rfl
@[simp] theorem raiseFatal_rdramPend : (raiseFatal info s).rdramPend = s.rdramPend := rfl
@[simp] theorem raiseFatal_wrtramPend : (raiseFatal info s).wrtramPend = s.wrtramPend := rfl
@[simp] theorem raiseFatal_cramAddr : (raiseFatal info s).cramAddr = s.cramAddr := rfl
@[simp] theorem raiseFatal_now : (raiseFatal info s).now = s.now := rfl
@[simp] theorem raiseFatal_taskNs : (raiseFatal info s).taskNs = s.taskNs := rfl
@[simp] theorem raiseFatal_inSlice : (raiseFatal info s).inSlice = s.inSlice := rfl
@[simp] theorem raiseFatal_sliceEnd : (raiseFatal info s).sliceEnd = s.sliceEnd := rfl
@[simp] theorem raiseFatal_remain : (raiseFatal info s).remain = s.remain := rfl
@[simp] theorem raiseFatal_leave : (raiseFatal info s).leave = s.leave := rfl
@[simp] theorem raiseFatal_queue : (raiseFatal info s).queue = s.queue := rfl
@[simp] theorem raiseFatal_nextId : (raiseFatal info s).nextId = s.nextId := rfl
@[simp] theorem raiseFatal_fatal : (raiseFatal info s).fatal = some info := rfl
@[simp] theorem raiseFatal_log : (raiseFatal info s).log = s.log := rfl
@[simp] theorem raiseFatal_store : (raiseFatal info s).store = s.store := rfl
@[simp] theorem raiseFatal_cfg : (raiseFatal info s).cfg = s.cfg := rfl
@[simp] theorem raiseFatal_hostCalls : (raiseFatal info s).hostCalls = s.hostCalls := rfl
@[simp] theorem raiseFatal_budget : (raiseFatal info s).budget = s.budget := rfl
@[simp] theorem raiseFatal_reply : (raiseFatal info s).reply = s.reply := rfl

end

section
variable (s : State) (report : AnomalyReport)

@[simp] theorem logReport_r : (logReport report s).r = s.r := rfl
@[simp] theorem logReport_sBanks : (logReport report s).sBanks = s.sBanks := rfl
@[simp] theorem logReport_t : (logReport report s).t = s.t := rfl
@[simp] theorem logReport_l : (logReport report s).l = s.l := rfl
@[simp] theorem logReport_m : (logReport report s).m = s.m := rfl
@[simp] theorem logReport_alu : (logReport report s).alu = s.alu := rfl
@[simp] theorem logReport_aluc0 : (logReport report s).aluc0 = s.aluc0 := rfl
@[simp] theorem logReport_laluc0 : (logReport report s).laluc0 = s.laluc0 := rfl
@[simp] theorem logReport_bus : (logReport report s).bus = s.bus := rfl
@[simp] theorem logReport_skip : (logReport report s).skip = s.skip := rfl
@[simp] theorem logReport_tself : (logReport report s).tself = s.tself := rfl
@[simp] theorem logReport_mir : (logReport report s).mir = s.mir := rfl
@[simp] theorem logReport_rsel : (logReport report s).rsel = s.rsel := rfl
@[simp] theorem logReport_mpc : (logReport report s).mpc = s.mpc := rfl
@[simp] theorem logReport_nextPc : (logReport report s).nextPc = s.nextPc := rfl
@[simp] theorem logReport_next2 : (logReport report s).next2 = s.next2 := rfl
@[simp] theorem logReport_tmpc : (logReport report s).tmpc = s.tmpc := rfl
@[simp] theorem logReport_tnext2 : (logReport report s).tnext2 = s.tnext2 := rfl
@[simp] theorem logReport_curTask : (logReport report s).curTask = s.curTask := rfl
@[simp] theorem logReport_nextTask : (logReport report s).nextTask = s.nextTask := rfl
@[simp] theorem logReport_nnTask : (logReport report s).nnTask = s.nnTask := rfl
@[simp] theorem logReport_wakeup : (logReport report s).wakeup = s.wakeup := rfl
@[simp] theorem logReport_bankSel : (logReport report s).bankSel = s.bankSel := rfl
@[simp] theorem logReport_rdramPend : (logReport report s).rdramPend = s.rdramPend := rfl
@[simp] theorem logReport_wrtramPend : (logReport report s).wrtramPend = s.wrtramPend := rfl
@[simp] theorem logReport_cramAddr : (logReport report s).cramAddr = s.cramAddr := rfl
@[simp] theorem logReport_now : (logReport report s).now = s.now := rfl
@[simp] theorem logReport_taskNs : (logReport report s).taskNs = s.taskNs := rfl
@[simp] theorem logReport_inSlice : (logReport report s).inSlice = s.inSlice := rfl
@[simp] theorem logReport_sliceEnd : (logReport report s).sliceEnd = s.sliceEnd := rfl
@[simp] theorem logReport_remain : (logReport report s).remain = s.remain := rfl
@[simp] theorem logReport_leave : (logReport report s).leave = s.leave := rfl
@[simp] theorem logReport_queue : (logReport report s).queue = s.queue := rfl
@[simp] theorem logReport_nextId : (logReport report s).nextId = s.nextId := rfl
@[simp] theorem logReport_fatal : (logReport report s).fatal = s.fatal := rfl
@[simp] theorem logReport_log : (logReport report s).log = s.log ++ [{ report := report, task := s.curTask, mpc := s.mpc, now := s.now }] := rfl
@[simp] theorem logReport_store : (logReport report s).store = s.store := rfl
@[simp] theorem logReport_cfg : (logReport report s).cfg = s.cfg := rfl
@[simp] theorem logReport_hostCalls : (logReport report s).hostCalls = s.hostCalls := rfl
@[simp] theorem logReport_budget : (logReport report s).budget = s.budget := rfl
@[simp] theorem logReport_reply : (logReport report s).reply = s.reply := rfl

end

section
variable (s : State) (i : RegSel) (v : Word)

@[simp] theorem writeR_r : (writeR i v s).r = s.r.set i.toNat v := rfl
@[simp] theorem writeR_sBanks : (writeR i v s).sBanks = s.sBanks := rfl
@[simp] theorem writeR_t : (writeR i v s).t = s.t := rfl
@[simp] theorem writeR_l : (writeR i v s).l = s.l := rfl
@[simp] theorem writeR_m : (writeR i v s).m = s.m := rfl
@[simp] theorem writeR_alu : (writeR i v s).alu = s.alu := rfl
@[simp] theorem writeR_aluc0 : (writeR i v s).aluc0 = s.aluc0 := rfl
@[simp] theorem writeR_laluc0 : (writeR i v s).laluc0 = s.laluc0 := rfl
@[simp] theorem writeR_bus : (writeR i v s).bus = s.bus := rfl
@[simp] theorem writeR_skip : (writeR i v s).skip = s.skip := rfl
@[simp] theorem writeR_tself : (writeR i v s).tself = s.tself := rfl
@[simp] theorem writeR_mir : (writeR i v s).mir = s.mir := rfl
@[simp] theorem writeR_rsel : (writeR i v s).rsel = s.rsel := rfl
@[simp] theorem writeR_mpc : (writeR i v s).mpc = s.mpc := rfl
@[simp] theorem writeR_nextPc : (writeR i v s).nextPc = s.nextPc := rfl
@[simp] theorem writeR_next2 : (writeR i v s).next2 = s.next2 := rfl
@[simp] theorem writeR_tmpc : (writeR i v s).tmpc = s.tmpc := rfl
@[simp] theorem writeR_tnext2 : (writeR i v s).tnext2 = s.tnext2 := rfl
@[simp] theorem writeR_curTask : (writeR i v s).curTask = s.curTask := rfl
@[simp] theorem writeR_nextTask : (writeR i v s).nextTask = s.nextTask := rfl
@[simp] theorem writeR_nnTask : (writeR i v s).nnTask = s.nnTask := rfl
@[simp] theorem writeR_wakeup : (writeR i v s).wakeup = s.wakeup := rfl
@[simp] theorem writeR_bankSel : (writeR i v s).bankSel = s.bankSel := rfl
@[simp] theorem writeR_rdramPend : (writeR i v s).rdramPend = s.rdramPend := rfl
@[simp] theorem writeR_wrtramPend : (writeR i v s).wrtramPend = s.wrtramPend := rfl
@[simp] theorem writeR_cramAddr : (writeR i v s).cramAddr = s.cramAddr := rfl
@[simp] theorem writeR_now : (writeR i v s).now = s.now := rfl
@[simp] theorem writeR_taskNs : (writeR i v s).taskNs = s.taskNs := rfl
@[simp] theorem writeR_inSlice : (writeR i v s).inSlice = s.inSlice := rfl
@[simp] theorem writeR_sliceEnd : (writeR i v s).sliceEnd = s.sliceEnd := rfl
@[simp] theorem writeR_remain : (writeR i v s).remain = s.remain := rfl
@[simp] theorem writeR_leave : (writeR i v s).leave = s.leave := rfl
@[simp] theorem writeR_queue : (writeR i v s).queue = s.queue := rfl
@[simp] theorem writeR_nextId : (writeR i v s).nextId = s.nextId := rfl
@[simp] theorem writeR_fatal : (writeR i v s).fatal = s.fatal := rfl
@[simp] theorem writeR_log : (writeR i v s).log = s.log := rfl
@[simp] theorem writeR_store : (writeR i v s).store = s.store := rfl
@[simp] theorem writeR_cfg : (writeR i v s).cfg = s.cfg := rfl
@[simp] theorem writeR_hostCalls : (writeR i v s).hostCalls = s.hostCalls := rfl
@[simp] theorem writeR_budget : (writeR i v s).budget = s.budget := rfl
@[simp] theorem writeR_reply : (writeR i v s).reply = s.reply := rfl

end

section
variable (s : State) (b : Nat) (i : RegSel) (v : Word)

@[simp] theorem writeS_r : (writeS b i v s).r = s.r := rfl
@[simp] theorem writeS_sBanks : (writeS b i v s).sBanks = s.sBanks.modify b fun regs => regs.set i.toNat v := rfl
@[simp] theorem writeS_t : (writeS b i v s).t = s.t := rfl
@[simp] theorem writeS_l : (writeS b i v s).l = s.l := rfl
@[simp] theorem writeS_m : (writeS b i v s).m = s.m := rfl
@[simp] theorem writeS_alu : (writeS b i v s).alu = s.alu := rfl
@[simp] theorem writeS_aluc0 : (writeS b i v s).aluc0 = s.aluc0 := rfl
@[simp] theorem writeS_laluc0 : (writeS b i v s).laluc0 = s.laluc0 := rfl
@[simp] theorem writeS_bus : (writeS b i v s).bus = s.bus := rfl
@[simp] theorem writeS_skip : (writeS b i v s).skip = s.skip := rfl
@[simp] theorem writeS_tself : (writeS b i v s).tself = s.tself := rfl
@[simp] theorem writeS_mir : (writeS b i v s).mir = s.mir := rfl
@[simp] theorem writeS_rsel : (writeS b i v s).rsel = s.rsel := rfl
@[simp] theorem writeS_mpc : (writeS b i v s).mpc = s.mpc := rfl
@[simp] theorem writeS_nextPc : (writeS b i v s).nextPc = s.nextPc := rfl
@[simp] theorem writeS_next2 : (writeS b i v s).next2 = s.next2 := rfl
@[simp] theorem writeS_tmpc : (writeS b i v s).tmpc = s.tmpc := rfl
@[simp] theorem writeS_tnext2 : (writeS b i v s).tnext2 = s.tnext2 := rfl
@[simp] theorem writeS_curTask : (writeS b i v s).curTask = s.curTask := rfl
@[simp] theorem writeS_nextTask : (writeS b i v s).nextTask = s.nextTask := rfl
@[simp] theorem writeS_nnTask : (writeS b i v s).nnTask = s.nnTask := rfl
@[simp] theorem writeS_wakeup : (writeS b i v s).wakeup = s.wakeup := rfl
@[simp] theorem writeS_bankSel : (writeS b i v s).bankSel = s.bankSel := rfl
@[simp] theorem writeS_rdramPend : (writeS b i v s).rdramPend = s.rdramPend := rfl
@[simp] theorem writeS_wrtramPend : (writeS b i v s).wrtramPend = s.wrtramPend := rfl
@[simp] theorem writeS_cramAddr : (writeS b i v s).cramAddr = s.cramAddr := rfl
@[simp] theorem writeS_now : (writeS b i v s).now = s.now := rfl
@[simp] theorem writeS_taskNs : (writeS b i v s).taskNs = s.taskNs := rfl
@[simp] theorem writeS_inSlice : (writeS b i v s).inSlice = s.inSlice := rfl
@[simp] theorem writeS_sliceEnd : (writeS b i v s).sliceEnd = s.sliceEnd := rfl
@[simp] theorem writeS_remain : (writeS b i v s).remain = s.remain := rfl
@[simp] theorem writeS_leave : (writeS b i v s).leave = s.leave := rfl
@[simp] theorem writeS_queue : (writeS b i v s).queue = s.queue := rfl
@[simp] theorem writeS_nextId : (writeS b i v s).nextId = s.nextId := rfl
@[simp] theorem writeS_fatal : (writeS b i v s).fatal = s.fatal := rfl
@[simp] theorem writeS_log : (writeS b i v s).log = s.log := rfl
@[simp] theorem writeS_store : (writeS b i v s).store = s.store := rfl
@[simp] theorem writeS_cfg : (writeS b i v s).cfg = s.cfg := rfl
@[simp] theorem writeS_hostCalls : (writeS b i v s).hostCalls = s.hostCalls := rfl
@[simp] theorem writeS_budget : (writeS b i v s).budget = s.budget := rfl
@[simp] theorem writeS_reply : (writeS b i v s).reply = s.reply := rfl

end

section
variable (s : State) (a : Nat) (v : MicroWord)

@[simp] theorem ucWrite_r : (ucWrite a v s).r = s.r := rfl
@[simp] theorem ucWrite_sBanks : (ucWrite a v s).sBanks = s.sBanks := rfl
@[simp] theorem ucWrite_t : (ucWrite a v s).t = s.t := rfl
@[simp] theorem ucWrite_l : (ucWrite a v s).l = s.l := rfl
@[simp] theorem ucWrite_m : (ucWrite a v s).m = s.m := rfl
@[simp] theorem ucWrite_alu : (ucWrite a v s).alu = s.alu := rfl
@[simp] theorem ucWrite_aluc0 : (ucWrite a v s).aluc0 = s.aluc0 := rfl
@[simp] theorem ucWrite_laluc0 : (ucWrite a v s).laluc0 = s.laluc0 := rfl
@[simp] theorem ucWrite_bus : (ucWrite a v s).bus = s.bus := rfl
@[simp] theorem ucWrite_skip : (ucWrite a v s).skip = s.skip := rfl
@[simp] theorem ucWrite_tself : (ucWrite a v s).tself = s.tself := rfl
@[simp] theorem ucWrite_mir : (ucWrite a v s).mir = s.mir := rfl
@[simp] theorem ucWrite_rsel : (ucWrite a v s).rsel = s.rsel := rfl
@[simp] theorem ucWrite_mpc : (ucWrite a v s).mpc = s.mpc := rfl
@[simp] theorem ucWrite_nextPc : (ucWrite a v s).nextPc = s.nextPc := rfl
@[simp] theorem ucWrite_next2 : (ucWrite a v s).next2 = s.next2 := rfl
@[simp] theorem ucWrite_tmpc : (ucWrite a v s).tmpc = s.tmpc := rfl
@[simp] theorem ucWrite_tnext2 : (ucWrite a v s).tnext2 = s.tnext2 := rfl
@[simp] theorem ucWrite_curTask : (ucWrite a v s).curTask = s.curTask := rfl
@[simp] theorem ucWrite_nextTask : (ucWrite a v s).nextTask = s.nextTask := rfl
@[simp] theorem ucWrite_nnTask : (ucWrite a v s).nnTask = s.nnTask := rfl
@[simp] theorem ucWrite_wakeup : (ucWrite a v s).wakeup = s.wakeup := rfl
@[simp] theorem ucWrite_bankSel : (ucWrite a v s).bankSel = s.bankSel := rfl
@[simp] theorem ucWrite_rdramPend : (ucWrite a v s).rdramPend = s.rdramPend := rfl
@[simp] theorem ucWrite_wrtramPend : (ucWrite a v s).wrtramPend = s.wrtramPend := rfl
@[simp] theorem ucWrite_cramAddr : (ucWrite a v s).cramAddr = s.cramAddr := rfl
@[simp] theorem ucWrite_now : (ucWrite a v s).now = s.now := rfl
@[simp] theorem ucWrite_taskNs : (ucWrite a v s).taskNs = s.taskNs := rfl
@[simp] theorem ucWrite_inSlice : (ucWrite a v s).inSlice = s.inSlice := rfl
@[simp] theorem ucWrite_sliceEnd : (ucWrite a v s).sliceEnd = s.sliceEnd := rfl
@[simp] theorem ucWrite_remain : (ucWrite a v s).remain = s.remain := rfl
@[simp] theorem ucWrite_leave : (ucWrite a v s).leave = s.leave := rfl
@[simp] theorem ucWrite_queue : (ucWrite a v s).queue = s.queue := rfl
@[simp] theorem ucWrite_nextId : (ucWrite a v s).nextId = s.nextId := rfl
@[simp] theorem ucWrite_fatal : (ucWrite a v s).fatal = s.fatal := rfl
@[simp] theorem ucWrite_log : (ucWrite a v s).log = s.log := rfl
@[simp] theorem ucWrite_store : (ucWrite a v s).store = Memory.write s.store a v := rfl
@[simp] theorem ucWrite_cfg : (ucWrite a v s).cfg = s.cfg := rfl
@[simp] theorem ucWrite_hostCalls : (ucWrite a v s).hostCalls = s.hostCalls := rfl
@[simp] theorem ucWrite_budget : (ucWrite a v s).budget = s.budget := rfl
@[simp] theorem ucWrite_reply : (ucWrite a v s).reply = s.reply := rfl

end

section
variable (s : State)

@[simp] theorem saveTask_r : (saveTask s).r = s.r := rfl
@[simp] theorem saveTask_sBanks : (saveTask s).sBanks = s.sBanks := rfl
@[simp] theorem saveTask_t : (saveTask s).t = s.t := rfl
@[simp] theorem saveTask_l : (saveTask s).l = s.l := rfl
@[simp] theorem saveTask_m : (saveTask s).m = s.m := rfl
@[simp] theorem saveTask_alu : (saveTask s).alu = s.alu := rfl
@[simp] theorem saveTask_aluc0 : (saveTask s).aluc0 = s.aluc0 := rfl
@[simp] theorem saveTask_laluc0 : (saveTask s).laluc0 = s.laluc0 := rfl
@[simp] theorem saveTask_bus : (saveTask s).bus = s.bus := rfl
@[simp] theorem saveTask_skip : (saveTask s).skip = s.skip := rfl
@[simp] theorem saveTask_tself : (saveTask s).tself = s.tself := rfl
@[simp] theorem saveTask_mir : (saveTask s).mir = s.mir := rfl
@[simp] theorem saveTask_rsel : (saveTask s).rsel = s.rsel := rfl
@[simp] theorem saveTask_mpc : (saveTask s).mpc = s.mpc := rfl
@[simp] theorem saveTask_nextPc : (saveTask s).nextPc = s.nextPc := rfl
@[simp] theorem saveTask_next2 : (saveTask s).next2 = s.next2 := rfl
@[simp] theorem saveTask_tmpc : (saveTask s).tmpc = s.tmpc.set s.curTask.val s.nextPc := rfl
@[simp] theorem saveTask_tnext2 : (saveTask s).tnext2 = s.tnext2.set s.curTask.val s.next2 := rfl
@[simp] theorem saveTask_curTask : (saveTask s).curTask = s.curTask := rfl
@[simp] theorem saveTask_nextTask : (saveTask s).nextTask = s.nextTask := rfl
@[simp] theorem saveTask_nnTask : (saveTask s).nnTask = s.nnTask := rfl
@[simp] theorem saveTask_wakeup : (saveTask s).wakeup = s.wakeup := rfl
@[simp] theorem saveTask_bankSel : (saveTask s).bankSel = s.bankSel := rfl
@[simp] theorem saveTask_rdramPend : (saveTask s).rdramPend = s.rdramPend := rfl
@[simp] theorem saveTask_wrtramPend : (saveTask s).wrtramPend = s.wrtramPend := rfl
@[simp] theorem saveTask_cramAddr : (saveTask s).cramAddr = s.cramAddr := rfl
@[simp] theorem saveTask_now : (saveTask s).now = s.now := rfl
@[simp] theorem saveTask_taskNs : (saveTask s).taskNs = s.taskNs := rfl
@[simp] theorem saveTask_inSlice : (saveTask s).inSlice = s.inSlice := rfl
@[simp] theorem saveTask_sliceEnd : (saveTask s).sliceEnd = s.sliceEnd := rfl
@[simp] theorem saveTask_remain : (saveTask s).remain = s.remain := rfl
@[simp] theorem saveTask_leave : (saveTask s).leave = s.leave := rfl
@[simp] theorem saveTask_queue : (saveTask s).queue = s.queue := rfl
@[simp] theorem saveTask_nextId : (saveTask s).nextId = s.nextId := rfl
@[simp] theorem saveTask_fatal : (saveTask s).fatal = s.fatal := rfl
@[simp] theorem saveTask_log : (saveTask s).log = s.log := rfl
@[simp] theorem saveTask_store : (saveTask s).store = s.store := rfl
@[simp] theorem saveTask_cfg : (saveTask s).cfg = s.cfg := rfl
@[simp] theorem saveTask_hostCalls : (saveTask s).hostCalls = s.hostCalls := rfl
@[simp] theorem saveTask_budget : (saveTask s).budget = s.budget := rfl
@[simp] theorem saveTask_reply : (saveTask s).reply = s.reply := rfl

end

section
variable (s : State) (k : Task)

@[simp] theorem restoreTask_r : (restoreTask k s).r = s.r := rfl
@[simp] theorem restoreTask_sBanks : (restoreTask k s).sBanks = s.sBanks := rfl
@[simp] theorem restoreTask_t : (restoreTask k s).t = s.t := rfl
@[simp] theorem restoreTask_l : (restoreTask k s).l = s.l := rfl
@[simp] theorem restoreTask_m : (restoreTask k s).m = s.m := rfl
@[simp] theorem restoreTask_alu : (restoreTask k s).alu = s.alu := rfl
@[simp] theorem restoreTask_aluc0 : (restoreTask k s).aluc0 = s.aluc0 := rfl
@[simp] theorem restoreTask_laluc0 : (restoreTask k s).laluc0 = s.laluc0 := rfl
@[simp] theorem restoreTask_bus : (restoreTask k s).bus = s.bus := rfl
@[simp] theorem restoreTask_skip : (restoreTask k s).skip = s.skip := rfl
@[simp] theorem restoreTask_tself : (restoreTask k s).tself = s.tself := rfl
@[simp] theorem restoreTask_mir : (restoreTask k s).mir = s.mir := rfl
@[simp] theorem restoreTask_rsel : (restoreTask k s).rsel = s.rsel := rfl
@[simp] theorem restoreTask_mpc : (restoreTask k s).mpc = s.mpc := rfl
@[simp] theorem restoreTask_nextPc : (restoreTask k s).nextPc = s.tmpc[k.val] := rfl
@[simp] theorem restoreTask_next2 : (restoreTask k s).next2 = s.tnext2[k.val] := rfl
@[simp] theorem restoreTask_tmpc : (restoreTask k s).tmpc = s.tmpc := rfl
@[simp] theorem restoreTask_tnext2 : (restoreTask k s).tnext2 = s.tnext2 := rfl
@[simp] theorem restoreTask_curTask : (restoreTask k s).curTask = k := rfl
@[simp] theorem restoreTask_nextTask : (restoreTask k s).nextTask = s.nextTask := rfl
@[simp] theorem restoreTask_nnTask : (restoreTask k s).nnTask = s.nnTask := rfl
@[simp] theorem restoreTask_wakeup : (restoreTask k s).wakeup = s.wakeup := rfl
@[simp] theorem restoreTask_bankSel : (restoreTask k s).bankSel = s.bankSel := rfl
@[simp] theorem restoreTask_rdramPend : (restoreTask k s).rdramPend = s.rdramPend := rfl
@[simp] theorem restoreTask_wrtramPend : (restoreTask k s).wrtramPend = s.wrtramPend := rfl
@[simp] theorem restoreTask_cramAddr : (restoreTask k s).cramAddr = s.cramAddr := rfl
@[simp] theorem restoreTask_now : (restoreTask k s).now = s.now := rfl
@[simp] theorem restoreTask_taskNs : (restoreTask k s).taskNs = s.taskNs := rfl
@[simp] theorem restoreTask_inSlice : (restoreTask k s).inSlice = s.inSlice := rfl
@[simp] theorem restoreTask_sliceEnd : (restoreTask k s).sliceEnd = s.sliceEnd := rfl
@[simp] theorem restoreTask_remain : (restoreTask k s).remain = s.remain := rfl
@[simp] theorem restoreTask_leave : (restoreTask k s).leave = s.leave := rfl
@[simp] theorem restoreTask_queue : (restoreTask k s).queue = s.queue := rfl
@[simp] theorem restoreTask_nextId : (restoreTask k s).nextId = s.nextId := rfl
@[simp] theorem restoreTask_fatal : (restoreTask k s).fatal = s.fatal := rfl
@[simp] theorem restoreTask_log : (restoreTask k s).log = s.log := rfl
@[simp] theorem restoreTask_store : (restoreTask k s).store = s.store := rfl
@[simp] theorem restoreTask_cfg : (restoreTask k s).cfg = s.cfg := rfl
@[simp] theorem restoreTask_hostCalls : (restoreTask k s).hostCalls = s.hostCalls := rfl
@[simp] theorem restoreTask_budget : (restoreTask k s).budget = s.budget := rfl
@[simp] theorem restoreTask_reply : (restoreTask k s).reply = s.reply := rfl

end

section
variable (s : State) (v : Word)

@[simp] theorem driveBus_r : (driveBus v s).r = s.r := rfl
@[simp] theorem driveBus_sBanks : (driveBus v s).sBanks = s.sBanks := rfl
@[simp] theorem driveBus_t : (driveBus v s).t = s.t := rfl
@[simp] theorem driveBus_l : (driveBus v s).l = s.l := rfl
@[simp] theorem driveBus_m : (driveBus v s).m = s.m := rfl
@[simp] theorem driveBus_alu : (driveBus v s).alu = s.alu := rfl
@[simp] theorem driveBus_aluc0 : (driveBus v s).aluc0 = s.aluc0 := rfl
@[simp] theorem driveBus_laluc0 : (driveBus v s).laluc0 = s.laluc0 := rfl
@[simp] theorem driveBus_bus : (driveBus v s).bus = s.bus &&& v := rfl
@[simp] theorem driveBus_skip : (driveBus v s).skip = s.skip := rfl
@[simp] theorem driveBus_tself : (driveBus v s).tself = s.tself := rfl
@[simp] theorem driveBus_mir : (driveBus v s).mir = s.mir := rfl
@[simp] theorem driveBus_rsel : (driveBus v s).rsel = s.rsel := rfl
@[simp] theorem driveBus_mpc : (driveBus v s).mpc = s.mpc := rfl
@[simp] theorem driveBus_nextPc : (driveBus v s).nextPc = s.nextPc := rfl
@[simp] theorem driveBus_next2 : (driveBus v s).next2 = s.next2 := rfl
@[simp] theorem driveBus_tmpc : (driveBus v s).tmpc = s.tmpc := rfl
@[simp] theorem driveBus_tnext2 : (driveBus v s).tnext2 = s.tnext2 := rfl
@[simp] theorem driveBus_curTask : (driveBus v s).curTask = s.curTask := rfl
@[simp] theorem driveBus_nextTask : (driveBus v s).nextTask = s.nextTask := rfl
@[simp] theorem driveBus_nnTask : (driveBus v s).nnTask = s.nnTask := rfl
@[simp] theorem driveBus_wakeup : (driveBus v s).wakeup = s.wakeup := rfl
@[simp] theorem driveBus_bankSel : (driveBus v s).bankSel = s.bankSel := rfl
@[simp] theorem driveBus_rdramPend : (driveBus v s).rdramPend = s.rdramPend := rfl
@[simp] theorem driveBus_wrtramPend : (driveBus v s).wrtramPend = s.wrtramPend := rfl
@[simp] theorem driveBus_cramAddr : (driveBus v s).cramAddr = s.cramAddr := rfl
@[simp] theorem driveBus_now : (driveBus v s).now = s.now := rfl
@[simp] theorem driveBus_taskNs : (driveBus v s).taskNs = s.taskNs := rfl
@[simp] theorem driveBus_inSlice : (driveBus v s).inSlice = s.inSlice := rfl
@[simp] theorem driveBus_sliceEnd : (driveBus v s).sliceEnd = s.sliceEnd := rfl
@[simp] theorem driveBus_remain : (driveBus v s).remain = s.remain := rfl
@[simp] theorem driveBus_leave : (driveBus v s).leave = s.leave := rfl
@[simp] theorem driveBus_queue : (driveBus v s).queue = s.queue := rfl
@[simp] theorem driveBus_nextId : (driveBus v s).nextId = s.nextId := rfl
@[simp] theorem driveBus_fatal : (driveBus v s).fatal = s.fatal := rfl
@[simp] theorem driveBus_log : (driveBus v s).log = s.log := rfl
@[simp] theorem driveBus_store : (driveBus v s).store = s.store := rfl
@[simp] theorem driveBus_cfg : (driveBus v s).cfg = s.cfg := rfl
@[simp] theorem driveBus_hostCalls : (driveBus v s).hostCalls = s.hostCalls := rfl
@[simp] theorem driveBus_budget : (driveBus v s).budget = s.budget := rfl
@[simp] theorem driveBus_reply : (driveBus v s).reply = s.reply := rfl

end

section
variable (s : State) (d c : Nat) (a : Int) (n : String)

@[simp] theorem insertEvent_r : (insertEvent d c a n s).r = s.r := rfl
@[simp] theorem insertEvent_sBanks : (insertEvent d c a n s).sBanks = s.sBanks := rfl
@[simp] theorem insertEvent_t : (insertEvent d c a n s).t = s.t := rfl
@[simp] theorem insertEvent_l : (insertEvent d c a n s).l = s.l := rfl
@[simp] theorem insertEvent_m : (insertEvent d c a n s).m = s.m := rfl
@[simp] theorem insertEvent_alu : (insertEvent d c a n s).alu = s.alu := rfl
@[simp] theorem insertEvent_aluc0 : (insertEvent d c a n s).aluc0 = s.aluc0 := rfl
@[simp] theorem insertEvent_laluc0 : (insertEvent d c a n s).laluc0 = s.laluc0 := rfl
@[simp] theorem insertEvent_bus : (insertEvent d c a n s).bus = s.bus := rfl
@[simp] theorem insertEvent_skip : (insertEvent d c a n s).skip = s.skip := rfl
@[simp] theorem insertEvent_tself : (insertEvent d c a n s).tself = s.tself := rfl
@[simp] theorem insertEvent_mir : (insertEvent d c a n s).mir = s.mir := rfl
@[simp] theorem insertEvent_rsel : (insertEvent d c a n s).rsel = s.rsel := rfl
@[simp] theorem insertEvent_mpc : (insertEvent d c a n s).mpc = s.mpc := rfl
@[simp] theorem insertEvent_nextPc : (insertEvent d c a n s).nextPc = s.nextPc := rfl
@[simp] theorem insertEvent_next2 : (insertEvent d c a n s).next2 = s.next2 := rfl
@[simp] theorem insertEvent_tmpc : (insertEvent d c a n s).tmpc = s.tmpc := rfl
@[simp] theorem insertEvent_tnext2 : (insertEvent d c a n s).tnext2 = s.tnext2 := rfl
@[simp] theorem insertEvent_curTask : (insertEvent d c a n s).curTask = s.curTask := rfl
@[simp] theorem insertEvent_nextTask : (insertEvent d c a n s).nextTask = s.nextTask := rfl
@[simp] theorem insertEvent_nnTask : (insertEvent d c a n s).nnTask = s.nnTask := rfl
@[simp] theorem insertEvent_wakeup : (insertEvent d c a n s).wakeup = s.wakeup := rfl
@[simp] theorem insertEvent_bankSel : (insertEvent d c a n s).bankSel = s.bankSel := rfl
@[simp] theorem insertEvent_rdramPend : (insertEvent d c a n s).rdramPend = s.rdramPend := rfl
@[simp] theorem insertEvent_wrtramPend : (insertEvent d c a n s).wrtramPend = s.wrtramPend := rfl
@[simp] theorem insertEvent_cramAddr : (insertEvent d c a n s).cramAddr = s.cramAddr := rfl
@[simp] theorem insertEvent_now : (insertEvent d c a n s).now = s.now := rfl
@[simp] theorem insertEvent_taskNs : (insertEvent d c a n s).taskNs = s.taskNs := rfl
@[simp] theorem insertEvent_inSlice : (insertEvent d c a n s).inSlice = s.inSlice := rfl
@[simp] theorem insertEvent_sliceEnd : (insertEvent d c a n s).sliceEnd = s.sliceEnd := rfl
@[simp] theorem insertEvent_remain : (insertEvent d c a n s).remain = s.remain := rfl
@[simp] theorem insertEvent_leave : (insertEvent d c a n s).leave = (s.leave || leavesSlice s (s.now + d)) := rfl
@[simp] theorem insertEvent_queue : (insertEvent d c a n s).queue = enqueue s.queue ⟨s.nextId, s.now + d, c, a, n⟩ := rfl
@[simp] theorem insertEvent_nextId : (insertEvent d c a n s).nextId = s.nextId + 1 := rfl
@[simp] theorem insertEvent_fatal : (insertEvent d c a n s).fatal = s.fatal := rfl
@[simp] theorem insertEvent_log : (insertEvent d c a n s).log = s.log := rfl
@[simp] theorem insertEvent_store : (insertEvent d c a n s).store = s.store := rfl
@[simp] theorem insertEvent_cfg : (insertEvent d c a n s).cfg = s.cfg := rfl
@[simp] theorem insertEvent_hostCalls : (insertEvent d c a n s).hostCalls = s.hostCalls := rfl
@[simp] theorem insertEvent_budget : (insertEvent d c a n s).budget = s.budget := rfl
@[simp] theorem insertEvent_reply : (insertEvent d c a n s).reply = s.reply := rfl

end

section
variable (s : State) (id : Nat)

@[simp] theorem removeEvent_r : (removeEvent id s).r = s.r := rfl
@[simp] theorem removeEvent_sBanks : (removeEvent id s).sBanks = s.sBanks := rfl
@[simp] theorem removeEvent_t : (removeEvent id s).t = s.t := rfl
@[simp] theorem removeEvent_l : (removeEvent id s).l = s.l := rfl
@[simp] theorem removeEvent_m : (removeEvent id s).m = s.m := rfl
@[simp] theorem removeEvent_alu : (removeEvent id s).alu = s.alu := rfl
@[simp] theorem removeEvent_aluc0 : (removeEvent id s).aluc0 = s.aluc0 := rfl
@[simp] theorem removeEvent_laluc0 : (removeEvent id s).laluc0 = s.laluc0 := rfl
@[simp] theorem removeEvent_bus : (removeEvent id s).bus = s.bus := rfl
@[simp] theorem removeEvent_skip : (removeEvent id s).skip = s.skip := rfl
@[simp] theorem removeEvent_tself : (removeEvent id s).tself = s.tself := rfl
@[simp] theorem removeEvent_mir : (removeEvent id s).mir = s.mir := rfl
@[simp] theorem removeEvent_rsel : (removeEvent id s).rsel = s.rsel := rfl
@[simp] theorem removeEvent_mpc : (removeEvent id s).mpc = s.mpc := rfl
@[simp] theorem removeEvent_nextPc : (removeEvent id s).nextPc = s.nextPc := rfl
@[simp] theorem removeEvent_next2 : (removeEvent id s).next2 = s.next2 := rfl
@[simp] theorem removeEvent_tmpc : (removeEvent id s).tmpc = s.tmpc := rfl
@[simp] theorem removeEvent_tnext2 : (removeEvent id s).tnext2 = s.tnext2 := rfl
@[simp] theorem removeEvent_curTask : (removeEvent id s).curTask = s.curTask := rfl
@[simp] theorem removeEvent_nextTask : (removeEvent id s).nextTask = s.nextTask := rfl
@[simp] theorem removeEvent_nnTask : (removeEvent id s).nnTask = s.nnTask := rfl
@[simp] theorem removeEvent_wakeup : (removeEvent id s).wakeup = s.wakeup := rfl
@[simp] theorem removeEvent_bankSel : (removeEvent id s).bankSel = s.bankSel := rfl
@[simp] theorem removeEvent_rdramPend : (removeEvent id s).rdramPend = s.rdramPend := rfl
@[simp] theorem removeEvent_wrtramPend : (removeEvent id s).wrtramPend = s.wrtramPend := rfl
@[simp] theorem removeEvent_cramAddr : (removeEvent id s).cramAddr = s.cramAddr := rfl
@[simp] theorem removeEvent_now : (removeEvent id s).now = s.now := rfl
@[simp] theorem removeEvent_taskNs : (removeEvent id s).taskNs = s.taskNs := rfl
@[simp] theorem removeEvent_inSlice : (removeEvent id s).inSlice = s.inSlice := rfl
@[simp] theorem removeEvent_sliceEnd : (removeEvent id s).sliceEnd = s.sliceEnd := rfl
@[simp] theorem removeEvent_remain : (removeEvent id s).remain = s.remain := rfl
@[simp] theorem removeEvent_leave : (removeEvent id s).leave = s.leave := rfl
@[simp] theorem removeEvent_queue : (removeEvent id s).queue = s.queue.filter fun e => decide (e.id ≠ id) := rfl
@[simp] theorem removeEvent_nextId : (removeEvent id s).nextId = s.nextId := rfl
@[simp] theorem removeEvent_fatal : (removeEvent id s).fatal = s.fatal := rfl
@[simp] theorem removeEvent_log : (removeEvent id s).log = s.log := rfl
@[simp] theorem removeEvent_store : (removeEvent id s).store = s.store := rfl
@[simp] theorem removeEvent_cfg : (removeEvent id s).cfg = s.cfg := rfl
@[simp] theorem removeEvent_hostCalls : (removeEvent id s).hostCalls = s.hostCalls := rfl
@[simp] theorem removeEvent_budget : (removeEvent id s).budget = s.budget := rfl
@[simp] theorem removeEvent_reply : (removeEvent id s).reply = s.reply := rfl

end

section
variable (s : State) (o : AluOutcome)

@[simp] theorem latchAlu_r : (latchAlu o s).r = s.r := rfl
@[simp] theorem latchAlu_sBanks : (latchAlu o s).sBanks = s.sBanks := rfl
@[simp] theorem latchAlu_t : (latchAlu o s).t = s.t := rfl
@[simp] theorem latchAlu_l : (latchAlu o s).l = s.l := rfl
@[simp] theorem latchAlu_m : (latchAlu o s).m = s.m := rfl
@[simp] theorem latchAlu_alu : (latchAlu o s).alu = o.result := rfl
@[simp] theorem latchAlu_aluc0 : (latchAlu o s).aluc0 = o.carryOut := rfl
@[simp] theorem latchAlu_laluc0 : (latchAlu o s).laluc0 = s.laluc0 := rfl
@[simp] theorem latchAlu_bus : (latchAlu o s).bus = s.bus := rfl
@[simp] theorem latchAlu_skip : (latchAlu o s).skip = s.skip := rfl
@[simp] theorem latchAlu_tself : (latchAlu o s).tself = o.tsel := rfl
@[simp] theorem latchAlu_mir : (latchAlu o s).mir = s.mir := rfl
@[simp] theorem latchAlu_rsel : (latchAlu o s).rsel = s.rsel := rfl
@[simp] theorem latchAlu_mpc : (latchAlu o s).mpc = s.mpc := rfl
@[simp] theorem latchAlu_nextPc : (latchAlu o s).nextPc = s.nextPc := rfl
@[simp] theorem latchAlu_next2 : (latchAlu o s).next2 = s.next2 := rfl
@[simp] theorem latchAlu_tmpc : (latchAlu o s).tmpc = s.tmpc := rfl
@[simp] theorem latchAlu_tnext2 : (latchAlu o s).tnext2 = s.tnext2 := rfl
@[simp] theorem latchAlu_curTask : (latchAlu o s).curTask = s.curTask := rfl
@[simp] theorem latchAlu_nextTask : (latchAlu o s).nextTask = s.nextTask := rfl
@[simp] theorem latchAlu_nnTask : (latchAlu o s).nnTask = s.nnTask := rfl
@[simp] theorem latchAlu_wakeup : (latchAlu o s).wakeup = s.wakeup := rfl
@[simp] theorem latchAlu_bankSel : (latchAlu o s).bankSel = s.bankSel := rfl
@[simp] theorem latchAlu_rdramPend : (latchAlu o s).rdramPend = s.rdramPend := rfl
@[simp] theorem latchAlu_wrtramPend : (latchAlu o s).wrtramPend = s.wrtramPend := rfl
@[simp] theorem latchAlu_cramAddr : (latchAlu o s).cramAddr = s.cramAddr := rfl
@[simp] theorem latchAlu_now : (latchAlu o s).now = s.now := rfl
@[simp] theorem latchAlu_taskNs : (latchAlu o s).taskNs = s.taskNs := rfl
@[simp] theorem latchAlu_inSlice : (latchAlu o s).inSlice = s.inSlice := rfl
@[simp] theorem latchAlu_sliceEnd : (latchAlu o s).sliceEnd = s.sliceEnd := rfl
@[simp] theorem latchAlu_remain : (latchAlu o s).remain = s.remain := rfl
@[simp] theorem latchAlu_leave : (latchAlu o s).leave = s.leave := rfl
@[simp] theorem latchAlu_queue : (latchAlu o s).queue = s.queue := rfl
@[simp] theorem latchAlu_nextId : (latchAlu o s).nextId = s.nextId := rfl
@[simp] theorem latchAlu_fatal : (latchAlu o s).fatal = s.fatal := rfl
@[simp] theorem latchAlu_log : (latchAlu o s).log = s.log := rfl
@[simp] theorem latchAlu_store : (latchAlu o s).store = s.store := rfl
@[simp] theorem latchAlu_cfg : (latchAlu o s).cfg = s.cfg := rfl
@[simp] theorem latchAlu_hostCalls : (latchAlu o s).hostCalls = s.hostCalls := rfl
@[simp] theorem latchAlu_budget : (latchAlu o s).budget = s.budget := rfl
@[simp] theorem latchAlu_reply : (latchAlu o s).reply = s.reply := rfl

end

section
variable (s : State)

@[simp] theorem flagRdram_r : (flagRdram s).r = s.r := rfl
@[simp] theorem flagRdram_sBanks : (flagRdram s).sBanks = s.sBanks := rfl
@[simp] theorem flagRdram_t : (flagRdram s).t = s.t := rfl
@[simp] theorem flagRdram_l : (flagRdram s).l = s.l := rfl
@[simp] theorem flagRdram_m : (flagRdram s).m = s.m := rfl
@[simp] theorem flagRdram_alu : (flagRdram s).alu = s.alu := rfl
@[simp] theorem flagRdram_aluc0 : (flagRdram s).aluc0 = s.aluc0 := rfl
@[simp] theorem flagRdram_laluc0 : (flagRdram s).laluc0 = s.laluc0 := rfl
@[simp] theorem flagRdram_bus : (flagRdram s).bus = s.bus := rfl
@[simp] theorem flagRdram_skip : (flagRdram s).skip = s.skip := rfl
@[simp] theorem flagRdram_tself : (flagRdram s).tself = s.tself := rfl
@[simp] theorem flagRdram_mir : (flagRdram s).mir = s.mir := rfl
@[simp] theorem flagRdram_rsel : (flagRdram s).rsel = s.rsel := rfl
@[simp] theorem flagRdram_mpc : (flagRdram s).mpc = s.mpc := rfl
@[simp] theorem flagRdram_nextPc : (flagRdram s).nextPc = s.nextPc := rfl
@[simp] theorem flagRdram_next2 : (flagRdram s).next2 = s.next2 := rfl
@[simp] theorem flagRdram_tmpc : (flagRdram s).tmpc = s.tmpc := rfl
@[simp] theorem flagRdram_tnext2 : (flagRdram s).tnext2 = s.tnext2 := rfl
@[simp] theorem flagRdram_curTask : (flagRdram s).curTask = s.curTask := rfl
@[simp] theorem flagRdram_nextTask : (flagRdram s).nextTask = s.nextTask := rfl
@[simp] theorem flagRdram_nnTask : (flagRdram s).nnTask = s.nnTask := rfl
@[simp] theorem flagRdram_wakeup : (flagRdram s).wakeup = s.wakeup := rfl
@[simp] theorem flagRdram_bankSel : (flagRdram s).bankSel = s.bankSel := rfl
@[simp] theorem flagRdram_rdramPend : (flagRdram s).rdramPend = true := rfl
@[simp] theorem flagRdram_wrtramPend : (flagRdram s).wrtramPend = s.wrtramPend := rfl
@[simp] theorem flagRdram_cramAddr : (flagRdram s).cramAddr = s.alu := rfl
@[simp] theorem flagRdram_now : (flagRdram s).now = s.now := rfl
@[simp] theorem flagRdram_taskNs : (flagRdram s).taskNs = s.taskNs := rfl
@[simp] theorem flagRdram_inSlice : (flagRdram s).inSlice = s.inSlice := rfl
@[simp] theorem flagRdram_sliceEnd : (flagRdram s).sliceEnd = s.sliceEnd := rfl
@[simp] theorem flagRdram_remain : (flagRdram s).remain = s.remain := rfl
@[simp] theorem flagRdram_leave : (flagRdram s).leave = s.leave := rfl
@[simp] theorem flagRdram_queue : (flagRdram s).queue = s.queue := rfl
@[simp] theorem flagRdram_nextId : (flagRdram s).nextId = s.nextId := rfl
@[simp] theorem flagRdram_fatal : (flagRdram s).fatal = s.fatal := rfl
@[simp] theorem flagRdram_log : (flagRdram s).log = s.log := rfl
@[simp] theorem flagRdram_store : (flagRdram s).store = s.store := rfl
@[simp] theorem flagRdram_cfg : (flagRdram s).cfg = s.cfg := rfl
@[simp] theorem flagRdram_hostCalls : (flagRdram s).hostCalls = s.hostCalls := rfl
@[simp] theorem flagRdram_budget : (flagRdram s).budget = s.budget := rfl
@[simp] theorem flagRdram_reply : (flagRdram s).reply = s.reply := rfl

end

section
variable (s : State)

@[simp] theorem flagWrtram_r : (flagWrtram s).r = s.r := rfl
@[simp] theorem flagWrtram_sBanks : (flagWrtram s).sBanks = s.sBanks := rfl
@[simp] theorem flagWrtram_t : (flagWrtram s).t = s.t := rfl
@[simp] theorem flagWrtram_l : (flagWrtram s).l = s.l := rfl
@[simp] theorem flagWrtram_m : (flagWrtram s).m = s.m := rfl
@[simp] theorem flagWrtram_alu : (flagWrtram s).alu = s.alu := rfl
@[simp] theorem flagWrtram_aluc0 : (flagWrtram s).aluc0 = s.aluc0 := rfl
@[simp] theorem flagWrtram_laluc0 : (flagWrtram s).laluc0 = s.laluc0 := rfl
@[simp] theorem flagWrtram_bus : (flagWrtram s).bus = s.bus := rfl
@[simp] theorem flagWrtram_skip : (flagWrtram s).skip = s.skip := rfl
@[simp] theorem flagWrtram_tself : (flagWrtram s).tself = s.tself := rfl
@[simp] theorem flagWrtram_mir : (flagWrtram s).mir = s.mir := rfl
@[simp] theorem flagWrtram_rsel : (flagWrtram s).rsel = s.rsel := rfl
@[simp] theorem flagWrtram_mpc : (flagWrtram s).mpc = s.mpc := rfl
@[simp] theorem flagWrtram_nextPc : (flagWrtram s).nextPc = s.nextPc := rfl
@[simp] theorem flagWrtram_next2 : (flagWrtram s).next2 = s.next2 := rfl
@[simp] theorem flagWrtram_tmpc : (flagWrtram s).tmpc = s.tmpc := rfl
@[simp] theorem flagWrtram_tnext2 : (flagWrtram s).tnext2 = s.tnext2 := rfl
@[simp] theorem flagWrtram_curTask : (flagWrtram s).curTask = s.curTask := rfl
@[simp] theorem flagWrtram_nextTask : (flagWrtram s).nextTask = s.nextTask := rfl
@[simp] theorem flagWrtram_nnTask : (flagWrtram s).nnTask = s.nnTask := rfl
@[simp] theorem flagWrtram_wakeup : (flagWrtram s).wakeup = s.wakeup := rfl
@[simp] theorem flagWrtram_bankSel : (flagWrtram s).bankSel = s.bankSel := rfl
@[simp] theorem flagWrtram_rdramPend : (flagWrtram s).rdramPend = s.rdramPend := rfl
@[simp] theorem flagWrtram_wrtramPend : (flagWrtram s).wrtramPend = true := rfl
@[simp] theorem flagWrtram_cramAddr : (flagWrtram s).cramAddr = s.alu := rfl
@[simp] theorem flagWrtram_now : (flagWrtram s).now = s.now := rfl
@[simp] theorem flagWrtram_taskNs : (flagWrtram s).taskNs = s.taskNs := rfl
@[simp] theorem flagWrtram_inSlice : (flagWrtram s).inSlice = s.inSlice := rfl
@[simp] theorem flagWrtram_sliceEnd : (flagWrtram s).sliceEnd = s.sliceEnd := rfl
@[simp] theorem flagWrtram_remain : (flagWrtram s).remain = s.remain := rfl
@[simp] theorem flagWrtram_leave : (flagWrtram s).leave = s.leave := rfl
@[simp] theorem flagWrtram_queue : (flagWrtram s).queue = s.queue := rfl
@[simp] theorem flagWrtram_nextId : (flagWrtram s).nextId = s.nextId := rfl
@[simp] theorem flagWrtram_fatal : (flagWrtram s).fatal = s.fatal := rfl
@[simp] theorem flagWrtram_log : (flagWrtram s).log = s.log := rfl
@[simp] theorem flagWrtram_store : (flagWrtram s).store = s.store := rfl
@[simp] theorem flagWrtram_cfg : (flagWrtram s).cfg = s.cfg := rfl
@[simp] theorem flagWrtram_hostCalls : (flagWrtram s).hostCalls = s.hostCalls := rfl
@[simp] theorem flagWrtram_budget : (flagWrtram s).budget = s.budget := rfl
@[simp] theorem flagWrtram_reply : (flagWrtram s).reply = s.reply := rfl

end

section
variable (s : State) (m : Micro)

@[simp] theorem loadMir_r : (loadMir m s).r = s.r := rfl
@[simp] theorem loadMir_sBanks : (loadMir m s).sBanks = s.sBanks := rfl
@[simp] theorem loadMir_t : (loadMir m s).t = s.t := rfl
@[simp] theorem loadMir_l : (loadMir m s).l = s.l := rfl
@[simp] theorem loadMir_m : (loadMir m s).m = s.m := rfl
@[simp] theorem loadMir_alu : (loadMir m s).alu = s.alu := rfl
@[simp] theorem loadMir_aluc0 : (loadMir m s).aluc0 = s.aluc0 := rfl
@[simp] theorem loadMir_laluc0 : (loadMir m s).laluc0 = s.laluc0 := rfl
@[simp] theorem loadMir_bus : (loadMir m s).bus = s.bus := rfl
@[simp] theorem loadMir_skip : (loadMir m s).skip = s.skip := rfl
@[simp] theorem loadMir_tself : (loadMir m s).tself = s.tself := rfl
@[simp] theorem loadMir_mir : (loadMir m s).mir = microWord m := rfl
@[simp] theorem loadMir_rsel : (loadMir m s).rsel = m.rsel := rfl
@[simp] theorem loadMir_mpc : (loadMir m s).mpc = s.mpc := rfl
@[simp] theorem loadMir_nextPc : (loadMir m s).nextPc = s.nextPc := rfl
@[simp] theorem loadMir_next2 : (loadMir m s).next2 = s.next2 := rfl
@[simp] theorem loadMir_tmpc : (loadMir m s).tmpc = s.tmpc := rfl
@[simp] theorem loadMir_tnext2 : (loadMir m s).tnext2 = s.tnext2 := rfl
@[simp] theorem loadMir_curTask : (loadMir m s).curTask = s.curTask := rfl
@[simp] theorem loadMir_nextTask : (loadMir m s).nextTask = s.nextTask := rfl
@[simp] theorem loadMir_nnTask : (loadMir m s).nnTask = s.nnTask := rfl
@[simp] theorem loadMir_wakeup : (loadMir m s).wakeup = s.wakeup := rfl
@[simp] theorem loadMir_bankSel : (loadMir m s).bankSel = s.bankSel := rfl
@[simp] theorem loadMir_rdramPend : (loadMir m s).rdramPend = s.rdramPend := rfl
@[simp] theorem loadMir_wrtramPend : (loadMir m s).wrtramPend = s.wrtramPend := rfl
@[simp] theorem loadMir_cramAddr : (loadMir m s).cramAddr = s.cramAddr := rfl
@[simp] theorem loadMir_now : (loadMir m s).now = s.now := rfl
@[simp] theorem loadMir_taskNs : (loadMir m s).taskNs = s.taskNs := rfl
@[simp] theorem loadMir_inSlice : (loadMir m s).inSlice = s.inSlice := rfl
@[simp] theorem loadMir_sliceEnd : (loadMir m s).sliceEnd = s.sliceEnd := rfl
@[simp] theorem loadMir_remain : (loadMir m s).remain = s.remain := rfl
@[simp] theorem loadMir_leave : (loadMir m s).leave = s.leave := rfl
@[simp] theorem loadMir_queue : (loadMir m s).queue = s.queue := rfl
@[simp] theorem loadMir_nextId : (loadMir m s).nextId = s.nextId := rfl
@[simp] theorem loadMir_fatal : (loadMir m s).fatal = s.fatal := rfl
@[simp] theorem loadMir_log : (loadMir m s).log = s.log := rfl
@[simp] theorem loadMir_store : (loadMir m s).store = s.store := rfl
@[simp] theorem loadMir_cfg : (loadMir m s).cfg = s.cfg := rfl
@[simp] theorem loadMir_hostCalls : (loadMir m s).hostCalls = s.hostCalls := rfl
@[simp] theorem loadMir_budget : (loadMir m s).budget = s.budget := rfl
@[simp] theorem loadMir_reply : (loadMir m s).reply = s.reply := rfl

end

section
variable (s : State) (n : PageOffset)

@[simp] theorem advance_r : (advance n s).r = s.r := rfl
@[simp] theorem advance_sBanks : (advance n s).sBanks = s.sBanks := rfl
@[simp] theorem advance_t : (advance n s).t = s.t := rfl
@[simp] theorem advance_l : (advance n s).l = s.l := rfl
@[simp] theorem advance_m : (advance n s).m = s.m := rfl
@[simp] theorem advance_alu : (advance n s).alu = s.alu := rfl
@[simp] theorem advance_aluc0 : (advance n s).aluc0 = s.aluc0 := rfl
@[simp] theorem advance_laluc0 : (advance n s).laluc0 = s.laluc0 := rfl
@[simp] theorem advance_bus : (advance n s).bus = s.bus := rfl
@[simp] theorem advance_skip : (advance n s).skip = s.skip := rfl
@[simp] theorem advance_tself : (advance n s).tself = s.tself := rfl
@[simp] theorem advance_mir : (advance n s).mir = s.mir := rfl
@[simp] theorem advance_rsel : (advance n s).rsel = s.rsel := rfl
@[simp] theorem advance_mpc : (advance n s).mpc = s.mpc := rfl
@[simp] theorem advance_nextPc : (advance n s).nextPc = ⟨s.mpc.page, n⟩ := rfl
@[simp] theorem advance_next2 : (advance n s).next2 = 0#10 := rfl
@[simp] theorem advance_tmpc : (advance n s).tmpc = s.tmpc := rfl
@[simp] theorem advance_tnext2 : (advance n s).tnext2 = s.tnext2 := rfl
@[simp] theorem advance_curTask : (advance n s).curTask = s.curTask := rfl
@[simp] theorem advance_nextTask : (advance n s).nextTask = s.nextTask := rfl
@[simp] theorem advance_nnTask : (advance n s).nnTask = s.nnTask := rfl
@[simp] theorem advance_wakeup : (advance n s).wakeup = s.wakeup := rfl
@[simp] theorem advance_bankSel : (advance n s).bankSel = s.bankSel := rfl
@[simp] theorem advance_rdramPend : (advance n s).rdramPend = s.rdramPend := rfl
@[simp] theorem advance_wrtramPend : (advance n s).wrtramPend = s.wrtramPend := rfl
@[simp] theorem advance_cramAddr : (advance n s).cramAddr = s.cramAddr := rfl
@[simp] theorem advance_now : (advance n s).now = s.now := rfl
@[simp] theorem advance_taskNs : (advance n s).taskNs = s.taskNs := rfl
@[simp] theorem advance_inSlice : (advance n s).inSlice = s.inSlice := rfl
@[simp] theorem advance_sliceEnd : (advance n s).sliceEnd = s.sliceEnd := rfl
@[simp] theorem advance_remain : (advance n s).remain = s.remain := rfl
@[simp] theorem advance_leave : (advance n s).leave = s.leave := rfl
@[simp] theorem advance_queue : (advance n s).queue = s.queue := rfl
@[simp] theorem advance_nextId : (advance n s).nextId = s.nextId := rfl
@[simp] theorem advance_fatal : (advance n s).fatal = s.fatal := rfl
@[simp] theorem advance_log : (advance n s).log = s.log := rfl
@[simp] theorem advance_store : (advance n s).store = s.store := rfl
@[simp] theorem advance_cfg : (advance n s).cfg = s.cfg := rfl
@[simp] theorem advance_hostCalls : (advance n s).hostCalls = s.hostCalls := rfl
@[simp] theorem advance_budget : (advance n s).budget = s.budget := rfl
@[simp] theorem advance_reply : (advance n s).reply = s.reply := rfl

end

section
variable (s : State)

@[simp] theorem account_r : (account s).r = s.r := rfl
@[simp] theorem account_sBanks : (account s).sBanks = s.sBanks := rfl
@[simp] theorem account_t : (account s).t = s.t := rfl
@[simp] theorem account_l : (account s).l = s.l := rfl
@[simp] theorem account_m : (account s).m = s.m := rfl
@[simp] theorem account_alu : (account s).alu = s.alu := rfl
@[simp] theorem account_aluc0 : (account s).aluc0 = s.aluc0 := rfl
@[simp] theorem account_laluc0 : (account s).laluc0 = s.laluc0 := rfl
@[simp] theorem account_bus : (account s).bus = s.bus := rfl
@[simp] theorem account_skip : (account s).skip = s.skip := rfl
@[simp] theorem account_tself : (account s).tself = s.tself := rfl
@[simp] theorem account_mir : (account s).mir = s.mir := rfl
@[simp] theorem account_rsel : (account s).rsel = s.rsel := rfl
@[simp] theorem account_mpc : (account s).mpc = s.mpc := rfl
@[simp] theorem account_nextPc : (account s).nextPc = s.nextPc := rfl
@[simp] theorem account_next2 : (account s).next2 = s.next2 := rfl
@[simp] theorem account_tmpc : (account s).tmpc = s.tmpc := rfl
@[simp] theorem account_tnext2 : (account s).tnext2 = s.tnext2 := rfl
@[simp] theorem account_curTask : (account s).curTask = s.curTask := rfl
@[simp] theorem account_nextTask : (account s).nextTask = s.nextTask := rfl
@[simp] theorem account_nnTask : (account s).nnTask = s.nnTask := rfl
@[simp] theorem account_wakeup : (account s).wakeup = s.wakeup := rfl
@[simp] theorem account_bankSel : (account s).bankSel = s.bankSel := rfl
@[simp] theorem account_rdramPend : (account s).rdramPend = s.rdramPend := rfl
@[simp] theorem account_wrtramPend : (account s).wrtramPend = s.wrtramPend := rfl
@[simp] theorem account_cramAddr : (account s).cramAddr = s.cramAddr := rfl
@[simp] theorem account_now : (account s).now = s.now + s.cfg.cycleNs := rfl
@[simp] theorem account_taskNs : (account s).taskNs = s.taskNs.set s.curTask.val (s.taskNs[s.curTask.val] + s.cfg.cycleNs) := rfl
@[simp] theorem account_inSlice : (account s).inSlice = s.inSlice := rfl
@[simp] theorem account_sliceEnd : (account s).sliceEnd = s.sliceEnd := rfl
@[simp] theorem account_remain : (account s).remain = s.remain - (s.cfg.cycleNs : Int) := rfl
@[simp] theorem account_leave : (account s).leave = s.leave := rfl
@[simp] theorem account_queue : (account s).queue = s.queue := rfl
@[simp] theorem account_nextId : (account s).nextId = s.nextId := rfl
@[simp] theorem account_fatal : (account s).fatal = s.fatal := rfl
@[simp] theorem account_log : (account s).log = s.log := rfl
@[simp] theorem account_store : (account s).store = s.store := rfl
@[simp] theorem account_cfg : (account s).cfg = s.cfg := rfl
@[simp] theorem account_hostCalls : (account s).hostCalls = s.hostCalls := rfl
@[simp] theorem account_budget : (account s).budget = s.budget := rfl
@[simp] theorem account_reply : (account s).reply = s.reply := rfl

end

section
variable (s : State)

@[simp] theorem fetch_r : (fetch s).r = s.r := rfl
@[simp] theorem fetch_sBanks : (fetch s).sBanks = s.sBanks := rfl
@[simp] theorem fetch_t : (fetch s).t = s.t := rfl
@[simp] theorem fetch_l : (fetch s).l = s.l := rfl
@[simp] theorem fetch_m : (fetch s).m = s.m := rfl
@[simp] theorem fetch_alu : (fetch s).alu = s.alu := rfl
@[simp] theorem fetch_aluc0 : (fetch s).aluc0 = s.aluc0 := rfl
@[simp] theorem fetch_laluc0 : (fetch s).laluc0 = s.laluc0 := rfl
@[simp] theorem fetch_bus : (fetch s).bus = s.bus := rfl
@[simp] theorem fetch_skip : (fetch s).skip = s.skip := rfl
@[simp] theorem fetch_tself : (fetch s).tself = s.tself := rfl
@[simp] theorem fetch_mir : (fetch s).mir = s.mir := rfl
@[simp] theorem fetch_rsel : (fetch s).rsel = s.rsel := rfl
@[simp] theorem fetch_mpc : (fetch s).mpc = fetchAddress s := rfl
@[simp] theorem fetch_nextPc : (fetch s).nextPc = s.nextPc := rfl
@[simp] theorem fetch_next2 : (fetch s).next2 = s.next2 := rfl
@[simp] theorem fetch_tmpc : (fetch s).tmpc = s.tmpc := rfl
@[simp] theorem fetch_tnext2 : (fetch s).tnext2 = s.tnext2 := rfl
@[simp] theorem fetch_curTask : (fetch s).curTask = s.curTask := rfl
@[simp] theorem fetch_nextTask : (fetch s).nextTask = s.nextTask := rfl
@[simp] theorem fetch_nnTask : (fetch s).nnTask = s.nnTask := rfl
@[simp] theorem fetch_wakeup : (fetch s).wakeup = s.wakeup := rfl
@[simp] theorem fetch_bankSel : (fetch s).bankSel = s.bankSel := rfl
@[simp] theorem fetch_rdramPend : (fetch s).rdramPend = s.rdramPend := rfl
@[simp] theorem fetch_wrtramPend : (fetch s).wrtramPend = s.wrtramPend := rfl
@[simp] theorem fetch_cramAddr : (fetch s).cramAddr = s.cramAddr := rfl
@[simp] theorem fetch_now : (fetch s).now = s.now := rfl
@[simp] theorem fetch_taskNs : (fetch s).taskNs = s.taskNs := rfl
@[simp] theorem fetch_inSlice : (fetch s).inSlice = s.inSlice := rfl
@[simp] theorem fetch_sliceEnd : (fetch s).sliceEnd = s.sliceEnd := rfl
@[simp] theorem fetch_remain : (fetch s).remain = s.remain := rfl
@[simp] theorem fetch_leave : (fetch s).leave = s.leave := rfl
@[simp] theorem fetch_queue : (fetch s).queue = s.queue := rfl
@[simp] theorem fetch_nextId : (fetch s).nextId = s.nextId := rfl
@[simp] theorem fetch_fatal : (fetch s).fatal = s.fatal := rfl
@[simp] theorem fetch_log : (fetch s).log = s.log := rfl
@[simp] theorem fetch_store : (fetch s).store = s.store := rfl
@[simp] theorem fetch_cfg : (fetch s).cfg = s.cfg := rfl
@[simp] theorem fetch_hostCalls : (fetch s).hostCalls = s.hostCalls := rfl
@[simp] theorem fetch_budget : (fetch s).budget = s.budget := rfl
@[simp] theorem fetch_reply : (fetch s).reply = s.reply := rfl

end

section
variable (s : State) (b : Nat)

@[simp] theorem beginSlice_r : (beginSlice b s).r = s.r := rfl
@[simp] theorem beginSlice_sBanks : (beginSlice b s).sBanks = s.sBanks := rfl
@[simp] theorem beginSlice_t : (beginSlice b s).t = s.t := rfl
@[simp] theorem beginSlice_l : (beginSlice b s).l = s.l := rfl
@[simp] theorem beginSlice_m : (beginSlice b s).m = s.m := rfl
@[simp] theorem beginSlice_alu : (beginSlice b s).alu = s.alu := rfl
@[simp] theorem beginSlice_aluc0 : (beginSlice b s).aluc0 = s.aluc0 := rfl
@[simp] theorem beginSlice_laluc0 : (beginSlice b s).laluc0 = s.laluc0 := rfl
@[simp] theorem beginSlice_bus : (beginSlice b s).bus = s.bus := rfl
@[simp] theorem beginSlice_skip : (beginSlice b s).skip = s.skip := rfl
@[simp] theorem beginSlice_tself : (beginSlice b s).tself = s.tself := rfl
@[simp] theorem beginSlice_mir : (beginSlice b s).mir = s.mir := rfl
@[simp] theorem beginSlice_rsel : (beginSlice b s).rsel = s.rsel := rfl
@[simp] theorem beginSlice_mpc : (beginSlice b s).mpc = s.mpc := rfl
@[simp] theorem beginSlice_nextPc : (beginSlice b s).nextPc = s.nextPc := rfl
@[simp] theorem beginSlice_next2 : (beginSlice b s).next2 = s.next2 := rfl
@[simp] theorem beginSlice_tmpc : (beginSlice b s).tmpc = s.tmpc := rfl
@[simp] theorem beginSlice_tnext2 : (beginSlice b s).tnext2 = s.tnext2 := rfl
@[simp] theorem beginSlice_curTask : (beginSlice b s).curTask = s.curTask := rfl
@[simp] theorem beginSlice_nextTask : (beginSlice b s).nextTask = s.nextTask := rfl
@[simp] theorem beginSlice_nnTask : (beginSlice b s).nnTask = s.nnTask := rfl
@[simp] theorem beginSlice_wakeup : (beginSlice b s).wakeup = s.wakeup := rfl
@[simp] theorem beginSlice_bankSel : (beginSlice b s).bankSel = s.bankSel := rfl
@[simp] theorem beginSlice_rdramPend : (beginSlice b s).rdramPend = s.rdramPend := rfl
@[simp] theorem beginSlice_wrtramPend : (beginSlice b s).wrtramPend = s.wrtramPend := rfl
@[simp] theorem beginSlice_cramAddr : (beginSlice b s).cramAddr = s.cramAddr := rfl
@[simp] theorem beginSlice_now : (beginSlice b s).now = s.now := rfl
@[simp] theorem beginSlice_taskNs : (beginSlice b s).taskNs = s.taskNs := rfl
@[simp] theorem beginSlice_inSlice : (beginSlice b s).inSlice = true := rfl
@[simp] theorem beginSlice_sliceEnd : (beginSlice b s).sliceEnd = s.now + b := rfl
@[simp] theorem beginSlice_remain : (beginSlice b s).remain = (b : Int) := rfl
@[simp] theorem beginSlice_leave : (beginSlice b s).leave = false := rfl
@[simp] theorem beginSlice_queue : (beginSlice b s).queue = s.queue := rfl
@[simp] theorem beginSlice_nextId : (beginSlice b s).nextId = s.nextId := rfl
@[simp] theorem beginSlice_fatal : (beginSlice b s).fatal = s.fatal := rfl
@[simp] theorem beginSlice_log : (beginSlice b s).log = s.log := rfl
@[simp] theorem beginSlice_store : (beginSlice b s).store = s.store := rfl
@[simp] theorem beginSlice_cfg : (beginSlice b s).cfg = s.cfg := rfl
@[simp] theorem beginSlice_hostCalls : (beginSlice b s).hostCalls = s.hostCalls := rfl
@[simp] theorem beginSlice_budget : (beginSlice b s).budget = b := rfl
@[simp] theorem beginSlice_reply : (beginSlice b s).reply = s.reply := rfl

end

section
variable (s : State)

@[simp] theorem contextOf_r : (contextOf s).r = s.r := rfl
@[simp] theorem contextOf_sBanks : (contextOf s).sBanks = s.sBanks := rfl
@[simp] theorem contextOf_t : (contextOf s).t = s.t := rfl
@[simp] theorem contextOf_l : (contextOf s).l = s.l := rfl
@[simp] theorem contextOf_m : (contextOf s).m = s.m := rfl
@[simp] theorem contextOf_alu : (contextOf s).alu = s.alu := rfl
@[simp] theorem contextOf_aluc0 : (contextOf s).aluc0 = s.aluc0 := rfl
@[simp] theorem contextOf_laluc0 : (contextOf s).laluc0 = s.laluc0 := rfl
@[simp] theorem contextOf_bus : (contextOf s).bus = s.bus := rfl
@[simp] theorem contextOf_skip : (contextOf s).skip = s.skip := rfl
@[simp] theorem contextOf_tself : (contextOf s).tself = s.tself := rfl
@[simp] theorem contextOf_mir : (contextOf s).mir = s.mir := rfl
@[simp] theorem contextOf_rsel : (contextOf s).rsel = s.rsel := rfl
@[simp] theorem contextOf_mpc : (contextOf s).mpc = s.mpc := rfl
@[simp] theorem contextOf_nextPc : (contextOf s).nextPc = s.nextPc := rfl
@[simp] theorem contextOf_next2 : (contextOf s).next2 = s.next2 := rfl
@[simp] theorem contextOf_tmpc : (contextOf s).tmpc = s.tmpc := rfl
@[simp] theorem contextOf_tnext2 : (contextOf s).tnext2 = s.tnext2 := rfl
@[simp] theorem contextOf_curTask : (contextOf s).curTask = s.curTask := rfl
@[simp] theorem contextOf_nextTask : (contextOf s).nextTask = s.nextTask := rfl
@[simp] theorem contextOf_nnTask : (contextOf s).nnTask = s.nnTask := rfl
@[simp] theorem contextOf_wakeup : (contextOf s).wakeup = s.wakeup := rfl
@[simp] theorem contextOf_bankSel : (contextOf s).bankSel = s.bankSel := rfl
@[simp] theorem contextOf_rdramPend : (contextOf s).rdramPend = s.rdramPend := rfl
@[simp] theorem contextOf_wrtramPend : (contextOf s).wrtramPend = s.wrtramPend := rfl
@[simp] theorem contextOf_cramAddr : (contextOf s).cramAddr = s.cramAddr := rfl
@[simp] theorem contextOf_now : (contextOf s).now = s.now := rfl
@[simp] theorem contextOf_taskNs : (contextOf s).taskNs = s.taskNs := rfl
@[simp] theorem contextOf_inSlice : (contextOf s).inSlice = s.inSlice := rfl
@[simp] theorem contextOf_sliceEnd : (contextOf s).sliceEnd = s.sliceEnd := rfl
@[simp] theorem contextOf_remain : (contextOf s).remain = s.remain := rfl
@[simp] theorem contextOf_leave : (contextOf s).leave = s.leave := rfl
@[simp] theorem contextOf_queue : (contextOf s).queue = s.queue := rfl
@[simp] theorem contextOf_nextId : (contextOf s).nextId = s.nextId := rfl
@[simp] theorem contextOf_fatal : (contextOf s).fatal = s.fatal := rfl
@[simp] theorem contextOf_log : (contextOf s).log = s.log := rfl
@[simp] theorem contextOf_store : (contextOf s).store = s.store := rfl
@[simp] theorem contextOf_cfg : (contextOf s).cfg = s.cfg := rfl
@[simp] theorem contextOf_hostCalls : (contextOf s).hostCalls = [] := rfl
@[simp] theorem contextOf_budget : (contextOf s).budget = 0 := rfl
@[simp] theorem contextOf_reply : (contextOf s).reply = none := rfl

end

section
variable (s : State) (calls : List HostCall)

@[simp] theorem offerCalls_r : (offerCalls calls s).r = s.r := rfl
@[simp] theorem offerCalls_sBanks : (offerCalls calls s).sBanks = s.sBanks := rfl
@[simp] theorem offerCalls_t : (offerCalls calls s).t = s.t := rfl
@[simp] theorem offerCalls_l : (offerCalls calls s).l = s.l := rfl
@[simp] theorem offerCalls_m : (offerCalls calls s).m = s.m := rfl
@[simp] theorem offerCalls_alu : (offerCalls calls s).alu = s.alu := rfl
@[simp] theorem offerCalls_aluc0 : (offerCalls calls s).aluc0 = s.aluc0 := rfl
@[simp] theorem offerCalls_laluc0 : (offerCalls calls s).laluc0 = s.laluc0 := rfl
@[simp] theorem offerCalls_bus : (offerCalls calls s).bus = s.bus := rfl
@[simp] theorem offerCalls_skip : (offerCalls calls s).skip = s.skip := rfl
@[simp] theorem offerCalls_tself : (offerCalls calls s).tself = s.tself := rfl
@[simp] theorem offerCalls_mir : (offerCalls calls s).mir = s.mir := rfl
@[simp] theorem offerCalls_rsel : (offerCalls calls s).rsel = s.rsel := rfl
@[simp] theorem offerCalls_mpc : (offerCalls calls s).mpc = s.mpc := rfl
@[simp] theorem offerCalls_nextPc : (offerCalls calls s).nextPc = s.nextPc := rfl
@[simp] theorem offerCalls_next2 : (offerCalls calls s).next2 = s.next2 := rfl
@[simp] theorem offerCalls_tmpc : (offerCalls calls s).tmpc = s.tmpc := rfl
@[simp] theorem offerCalls_tnext2 : (offerCalls calls s).tnext2 = s.tnext2 := rfl
@[simp] theorem offerCalls_curTask : (offerCalls calls s).curTask = s.curTask := rfl
@[simp] theorem offerCalls_nextTask : (offerCalls calls s).nextTask = s.nextTask := rfl
@[simp] theorem offerCalls_nnTask : (offerCalls calls s).nnTask = s.nnTask := rfl
@[simp] theorem offerCalls_wakeup : (offerCalls calls s).wakeup = s.wakeup := rfl
@[simp] theorem offerCalls_bankSel : (offerCalls calls s).bankSel = s.bankSel := rfl
@[simp] theorem offerCalls_rdramPend : (offerCalls calls s).rdramPend = s.rdramPend := rfl
@[simp] theorem offerCalls_wrtramPend : (offerCalls calls s).wrtramPend = s.wrtramPend := rfl
@[simp] theorem offerCalls_cramAddr : (offerCalls calls s).cramAddr = s.cramAddr := rfl
@[simp] theorem offerCalls_now : (offerCalls calls s).now = s.now := rfl
@[simp] theorem offerCalls_taskNs : (offerCalls calls s).taskNs = s.taskNs := rfl
@[simp] theorem offerCalls_inSlice : (offerCalls calls s).inSlice = s.inSlice := rfl
@[simp] theorem offerCalls_sliceEnd : (offerCalls calls s).sliceEnd = s.sliceEnd := rfl
@[simp] theorem offerCalls_remain : (offerCalls calls s).remain = s.remain := rfl
@[simp] theorem offerCalls_leave : (offerCalls calls s).leave = s.leave := rfl
@[simp] theorem offerCalls_queue : (offerCalls calls s).queue = s.queue := rfl
@[simp] theorem offerCalls_nextId : (offerCalls calls s).nextId = s.nextId := rfl
@[simp] theorem offerCalls_fatal : (offerCalls calls s).fatal = s.fatal := rfl
@[simp] theorem offerCalls_log : (offerCalls calls s).log = s.log := rfl
@[simp] theorem offerCalls_store : (offerCalls calls s).store = s.store := rfl
@[simp] theorem offerCalls_cfg : (offerCalls calls s).cfg = s.cfg := rfl
@[simp] theorem offerCalls_hostCalls : (offerCalls calls s).hostCalls = s.hostCalls ++ calls := rfl
@[simp] theorem offerCalls_budget : (offerCalls calls s).budget = s.budget := rfl
@[simp] theorem offerCalls_reply : (offerCalls calls s).reply = s.reply := rfl

end

section
variable (s : State)

@[simp] theorem endSlice_r : (endSlice s).r = s.r := rfl
@[simp] theorem endSlice_sBanks : (endSlice s).sBanks = s.sBanks := rfl
@[simp] theorem endSlice_t : (endSlice s).t = s.t := rfl
@[simp] theorem endSlice_l : (endSlice s).l = s.l := rfl
@[simp] theorem endSlice_m : (endSlice s).m = s.m := rfl
@[simp] theorem endSlice_alu : (endSlice s).alu = s.alu := rfl
@[simp] theorem endSlice_aluc0 : (endSlice s).aluc0 = s.aluc0 := rfl
@[simp] theorem endSlice_laluc0 : (endSlice s).laluc0 = s.laluc0 := rfl
@[simp] theorem endSlice_bus : (endSlice s).bus = s.bus := rfl
@[simp] theorem endSlice_skip : (endSlice s).skip = s.skip := rfl
@[simp] theorem endSlice_tself : (endSlice s).tself = s.tself := rfl
@[simp] theorem endSlice_mir : (endSlice s).mir = s.mir := rfl
@[simp] theorem endSlice_rsel : (endSlice s).rsel = s.rsel := rfl
@[simp] theorem endSlice_mpc : (endSlice s).mpc = s.mpc := rfl
@[simp] theorem endSlice_nextPc : (endSlice s).nextPc = s.nextPc := rfl
@[simp] theorem endSlice_next2 : (endSlice s).next2 = s.next2 := rfl
@[simp] theorem endSlice_tmpc : (endSlice s).tmpc = s.tmpc := rfl
@[simp] theorem endSlice_tnext2 : (endSlice s).tnext2 = s.tnext2 := rfl
@[simp] theorem endSlice_curTask : (endSlice s).curTask = s.curTask := rfl
@[simp] theorem endSlice_nextTask : (endSlice s).nextTask = s.nextTask := rfl
@[simp] theorem endSlice_nnTask : (endSlice s).nnTask = s.nnTask := rfl
@[simp] theorem endSlice_wakeup : (endSlice s).wakeup = s.wakeup := rfl
@[simp] theorem endSlice_bankSel : (endSlice s).bankSel = s.bankSel := rfl
@[simp] theorem endSlice_rdramPend : (endSlice s).rdramPend = s.rdramPend := rfl
@[simp] theorem endSlice_wrtramPend : (endSlice s).wrtramPend = s.wrtramPend := rfl
@[simp] theorem endSlice_cramAddr : (endSlice s).cramAddr = s.cramAddr := rfl
@[simp] theorem endSlice_now : (endSlice s).now = s.now := rfl
@[simp] theorem endSlice_taskNs : (endSlice s).taskNs = s.taskNs := rfl
@[simp] theorem endSlice_inSlice : (endSlice s).inSlice = false := rfl
@[simp] theorem endSlice_sliceEnd : (endSlice s).sliceEnd = s.sliceEnd := rfl
@[simp] theorem endSlice_remain : (endSlice s).remain = s.remain := rfl
@[simp] theorem endSlice_leave : (endSlice s).leave = s.leave := rfl
@[simp] theorem endSlice_queue : (endSlice s).queue = s.queue := rfl
@[simp] theorem endSlice_nextId : (endSlice s).nextId = s.nextId := rfl
@[simp] theorem endSlice_fatal : (endSlice s).fatal = s.fatal := rfl
@[simp] theorem endSlice_log : (endSlice s).log = s.log := rfl
@[simp] theorem endSlice_store : (endSlice s).store = s.store := rfl
@[simp] theorem endSlice_cfg : (endSlice s).cfg = s.cfg := rfl
@[simp] theorem endSlice_hostCalls : (endSlice s).hostCalls = s.hostCalls := rfl
@[simp] theorem endSlice_budget : (endSlice s).budget = s.budget := rfl
@[simp] theorem endSlice_reply : (endSlice s).reply = some (.consumed (consumedNs s)) := rfl

end

end Sys2Proof.Machine
end

