-- ==== Sys2Proof/Laws/Ops.lean ====
section
/-! SUPPORT. One lemma for each shared operation that says what it can do. -/

namespace Sys2Proof.Machine

/-! ### The dispatch of an instruction -/

/-- Every instruction is its microinstruction, run from decode on. -/
theorem exec_eq (i : Instr) (s : State) : exec i s = .next (runMicro (microOf i) s) := by
  cases i <;> rfl

/-! ### The fatal state -/

theorem unlessFatal_running {f : State → State} {s : State} (h : s.fatal = none) : unlessFatal f s = f s := by
  simp [unlessFatal, h]

theorem unlessFatal_halted {f : State → State} {s : State} (h : s.fatal ≠ none) : unlessFatal f s = s := by
  simp [unlessFatal, Option.isSome_iff_ne_none.mpr h]

/-- An operation guarded by the fatal state either acts or leaves a fatal state as it is. -/
theorem unlessFatal_cases (f : State → State) (s : State) :
    (s.fatal = none ∧ unlessFatal f s = f s) ∨ (s.fatal ≠ none ∧ unlessFatal f s = s) := by
  by_cases h : s.fatal = none
  · exact .inl ⟨h, unlessFatal_running h⟩
  · exact .inr ⟨h, unlessFatal_halted h⟩

/-! ### The handler contract -/

theorem ContractKept.refl (s : State) : ContractKept s s := by
  constructor <;> rfl

theorem ContractKept.trans {s t u : State} (h : ContractKept s t) (k : ContractKept t u) : ContractKept s u := by
  cases h; cases k
  constructor <;> simp_all

theorem raiseFatal_kept (info : FatalInfo) (s : State) : ContractKept s (raiseFatal info s) := by
  constructor <;> rfl

/-- What a write of the contract can do: it keeps the contract, the fatal state and the number of banks, and it
takes no bit of NEXT2 away. -/
theorem applyAction_spec (s : State) (a : Action) :
    ContractKept s (applyAction s a) ∧ (applyAction s a).fatal = s.fatal ∧
      (applyAction s a).sBanks.length = s.sBanks.length ∧
      s.next2 &&& (applyAction s a).next2 = s.next2 := by
  cases a <;> refine ⟨by constructor <;> rfl, rfl, ?_, ?_⟩ <;> simp [applyAction]
  all_goals
    ext i
    simp only [BitVec.getElem_and, BitVec.getElem_or]
    grind

/-- What the lines of a handler can do when they return a context. -/
theorem runLines_spec {lines : List ScriptLine} {s t : State} (h : runLines lines s = .ok t) :
    ContractKept s t ∧ t.fatal = s.fatal ∧ t.sBanks.length = s.sBanks.length ∧ s.next2 &&& t.next2 = s.next2 := by
  induction lines generalizing s with
  | nil =>
    obtain rfl : s = t := by simpa [runLines] using h
    exact ⟨.refl s, rfl, rfl, BitVec.and_self⟩
  | cons ln rest ih =>
    simp only [runLines] at h
    split at h
    · split at h
      · rename_i a _
        obtain ⟨k1, k2, k3, k4⟩ := applyAction_spec s a
        obtain ⟨j1, j2, j3, j4⟩ := ih h
        refine ⟨k1.trans j1, j2.trans k2, j3.trans k3, ?_⟩
        rw [← k4, BitVec.and_assoc, j4]
      · cases h
      · cases h
    · exact ih h

theorem OnlyGrows.refl (s : State) : OnlyGrows s s := ⟨⟨[], (List.append_nil _).symm⟩, Nat.le_refl _, id⟩

theorem OnlyGrows.trans {s t u : State} (h : OnlyGrows s t) (k : OnlyGrows t u) : OnlyGrows s u := by
  obtain ⟨x, hx⟩ := h.log
  obtain ⟨y, hy⟩ := k.log
  exact ⟨⟨x ++ y, by rw [hy, hx, List.append_assoc]⟩, h.nextId.trans k.nextId, fun e => k.leave (h.leave e)⟩

/-- A write of the contract only grows LOG, NEXT_ID and LEAVE. -/
theorem applyAction_grows (s : State) (a : Action) : OnlyGrows s (applyAction s a) := by
  cases a <;> first
    | exact ⟨⟨[], (List.append_nil _).symm⟩, Nat.le_refl _, id⟩
    | exact ⟨⟨_, rfl⟩, Nat.le_refl _, id⟩
    | exact ⟨⟨[], (List.append_nil _).symm⟩, Nat.le_succ _, fun h => by simp [applyAction, h]⟩

/-- The lines of a handler only grow LOG, NEXT_ID and LEAVE. -/
theorem runLines_grows {lines : List ScriptLine} {s t : State} (h : runLines lines s = .ok t) : OnlyGrows s t := by
  induction lines generalizing s with
  | nil =>
    obtain rfl : s = t := by simpa [runLines] using h
    exact .refl s
  | cons ln rest ih =>
    simp only [runLines] at h
    split at h
    · split at h
      · exact (applyAction_grows s _).trans (ih h)
      · cases h
      · cases h
    · exact ih h

/-- A call either returns what the handler's lines leave, or the context before it with the fault recorded. -/
theorem callHandler_cases (h : Handler) (arg : Option Int) (s : State) :
    runLines (handlerLines h arg s) s = .ok (callHandler h arg s) ∨
      ∃ kind reason, (kind = .collaboratorFatal ∨ kind = .reentrantExecute) ∧
        callHandler h arg s = raiseFatal (fatalInfo kind reason s) s := by
  have hk : ∀ (lines : List ScriptLine) (u : State) (kind : FatalKind) (reason : String),
      runLines lines u = .error (kind, reason) → kind = .collaboratorFatal ∨ kind = .reentrantExecute := by
    intro lines
    induction lines with
    | nil => intro u kind reason hr; simp [runLines] at hr
    | cons ln rest ih =>
      intro u kind reason hr
      simp only [runLines] at hr
      split at hr
      · split at hr
        · exact ih _ _ _ hr
        · simp at hr; exact .inl hr.1.symm
        · simp at hr; exact .inr hr.1.symm
      · exact ih _ _ _ hr
  unfold callHandler
  split
  · rename_i t ht
    exact .inl ht
  · rename_i kind reason he
    exact .inr ⟨kind, reason, hk _ _ _ _ he, rfl⟩

/-- A call only grows LOG, NEXT_ID and LEAVE, whatever the handler. -/
theorem callHandler_grows (h : Handler) (arg : Option Int) (s : State) : OnlyGrows s (callHandler h arg s) := by
  rcases callHandler_cases h arg s with ht | ⟨kind, reason, -, he⟩
  · exact runLines_grows ht
  · rw [he]
    exact ⟨(OnlyGrows.refl s).log, Nat.le_refl _, id⟩

@[simp] theorem callHandler_inert (arg : Option Int) (s : State) : callHandler inertHandler arg s = s := rfl

/-! ### The wakeup bitmask -/

/-- The highest requester requests, and no task above it does. -/
theorem highestRequester_some {w : Word} {k : Task} (h : highestRequester w = some k) :
    requests w k = true ∧ ∀ j : Task, k < j → requests w j = false := by
  simp only [highestRequester, tasksDown, List.find?_cons] at h
  repeat' split at h
  all_goals first
    | (simp only [List.find?_nil, reduceCtorEq] at h)
    | (obtain rfl := Option.some.inj h
       refine ⟨by assumption, fun j hj => ?_⟩
       fin_cases j <;> first | assumption | (exact absurd hj (by decide)))

/-- There is no highest requester exactly when no task requests. -/
theorem highestRequester_none {w : Word} : highestRequester w = none ↔ w = 0#16 := by
  constructor
  · intro h
    simp only [highestRequester, List.find?_eq_none] at h
    apply BitVec.eq_of_getLsbD_eq
    intro i hi
    have hm : (⟨i, hi⟩ : Task) ∈ tasksDown := by
      have : ∀ j : Task, j ∈ tasksDown := by decide
      exact this _
    simpa [requests] using h _ hm
  · rintro rfl
    decide

/-! ### The ALU's carry-in -/

/-- Code 013 sees the carry-in (R135). -/
@[simp] theorem carryInOf_skip (carryIn : Bool) : carryInOf skipCode carryIn = carryIn := by
  simp [carryInOf]

/-- Every other code sees none (R140). -/
theorem carryInOf_other {code : BitVec 4} (h : code ≠ skipCode) (carryIn : Bool) : carryInOf code carryIn = false := by
  simp [carryInOf, h]

/-! ### The control RAM address -/

/-- One bit of a word as a number. -/
theorem toNat_getLsbD (a : Word) (i : Nat) : (a.getLsbD i).toNat = a.toNat / 2 ^ i % 2 := by
  rw [BitVec.getLsbD, Nat.testBit_eq_decide_div_mod_eq]
  rcases Nat.mod_two_eq_zero_or_one (a.toNat / 2 ^ i) with h | h <;> simp [h]

/-- The word offset of the default layout: bits 9..0 (R105). -/
theorem cramWord_default (a : Word) : (cramWord defaultCramLayout a).toNat = a.toNat % 1024 := by
  have h : bitsAt defaultCramLayout.wordBits.toList a = a.toNat % 1024 := by
    change bitsAt [0, 1, 2, 3, 4, 5, 6, 7, 8, 9] a = _
    simp only [bitsAt, toNat_getLsbD]
    norm_num
    omega
  simp only [cramWord, h, BitVec.toNat_ofNat]
  omega

/-- The page number of the default layout: bits 15..12 (R105). -/
theorem cramBank_default (a : Word) : cramBank defaultCramLayout a = a.toNat / 4096 := by
  have := a.isLt
  change bitsAt [12, 13, 14, 15] a = _
  simp only [bitsAt, toNat_getLsbD]
  norm_num
  omega

/-- The ROM/RAM bit of the default layout: bit 11 (R105). -/
theorem cramIsRom_default (a : Word) : cramIsRom defaultCramLayout a = decide (a.toNat / 2048 % 2 = 1) := by
  change a.getLsbD 11 = _
  rw [BitVec.getLsbD, Nat.testBit_eq_decide_div_mod_eq]

/-- A target lies in the store. -/
theorem cramTarget_lt {c : Config} {a : Word} {n : Nat} (h : cramTarget c a = some n) : n < storeWords c := by
  simp only [cramTarget, storeWords, pageWords] at h ⊢
  have hw := (cramWord c.cramLayout a).isLt
  split_ifs at h with h1 h2
  · obtain rfl := Option.some.inj h
    have := h1.2
    simp only [Config.pages]
    omega
  · obtain rfl := Option.some.inj h
    have := h2.2
    simp only [Config.pages]
    omega

/-- WRTRAM's target is a target, and lies above every ROM word. -/
theorem wrtramTarget_spec {c : Config} {a : Word} {n : Nat} (h : wrtramTarget c a = some n) :
    cramTarget c a = some n ∧ c.romPages * pageWords ≤ n := by
  unfold wrtramTarget at h
  split_ifs at h with hr
  refine ⟨h, ?_⟩
  simp only [cramTarget, pageWords] at h ⊢
  split_ifs at h with h1 h2
  · obtain rfl := Option.some.inj h
    omega
  · exact absurd h2.1 (by simpa using hr)

/-! ### The context -/

/-- States with one context differ in the model's own three fields alone. -/
theorem contextOf_eq_iff {s t : State} :
    contextOf s = contextOf t ↔
      t = { s with hostCalls := t.hostCalls, budget := t.budget, reply := t.reply } := by
  constructor
  · intro h
    cases s
    cases t
    simp_all [contextOf]
  · intro h
    rw [h]
    rfl

/-! ### The timer queue -/

theorem mem_enqueue {q : List Event} {e f : Event} : f ∈ enqueue q e ↔ f = e ∨ f ∈ q := by
  simp only [enqueue, List.mem_append, List.mem_filter, List.mem_singleton, decide_eq_true_eq]
  constructor
  · rintro ((⟨h, -⟩ | h) | ⟨h, -⟩)
    exacts [.inr h, .inl h, .inr h]
  · rintro (h | h)
    · exact .inl (.inr h)
    · rcases Nat.lt_or_ge e.time f.time with ht | ht
      · exact .inr ⟨h, ht⟩
      · exact .inl (.inl ⟨h, ht⟩)

end Sys2Proof.Machine
end

