-- ==== Sys2Proof/Laws/Engine.lean ====
section
/-! SUPPORT. What the parts of a microinstruction can do: what every part leaves as it is, what the steps before the
task switch leave as it is, and what the switch does. -/

namespace Sys2Proof.Machine

/-! ### What no part of a microinstruction changes -/

/-- What every part of a microinstruction keeps: time, the slice, the configuration, the micro-PC and the host's side; the
number of banks; ids only grow, the log only grows at its end, and the timer queue stays in order. -/
structure Quiet (s t : State) : Prop where
  now : t.now = s.now
  taskNs : t.taskNs = s.taskNs
  remain : t.remain = s.remain
  inSlice : t.inSlice = s.inSlice
  sliceEnd : t.sliceEnd = s.sliceEnd
  cfg : t.cfg = s.cfg
  mpc : t.mpc = s.mpc
  hostCalls : t.hostCalls = s.hostCalls
  budget : t.budget = s.budget
  reply : t.reply = s.reply
  banks : t.sBanks.length = s.sBanks.length
  nextId : s.nextId ≤ t.nextId
  log : ∃ new, t.log = s.log ++ new
  timer : TimerOk s → TimerOk t

theorem Quiet.refl (s : State) : Quiet s s := by
  constructor <;> first | rfl | exact Nat.le_refl _ | exact ⟨[], by simp⟩ | exact id

theorem Quiet.trans {s t u : State} (h : Quiet s t) (k : Quiet t u) : Quiet s u := by
  obtain ⟨a1, a2, a3, a4, a5, a6, a7, a8, a9, a10, a11, a12, ⟨x, a13⟩, a14⟩ := h
  obtain ⟨b1, b2, b3, b4, b5, b6, b7, b8, b9, b10, b11, b12, ⟨y, b13⟩, b14⟩ := k
  exact ⟨b1.trans a1, b2.trans a2, b3.trans a3, b4.trans a4, b5.trans a5, b6.trans a6, b7.trans a7, b8.trans a8,
    b9.trans a9, b10.trans a10, b11.trans a11, a12.trans b12, ⟨x ++ y, by rw [b13, a13, List.append_assoc]⟩,
    fun h => b14 (a14 h)⟩

theorem Quiet.unlessFatal {f : State → State} {s : State} (h : s.fatal = none → Quiet s (f s)) :
    Quiet s (unlessFatal f s) := by
  rcases unlessFatal_cases f s with ⟨hf, e⟩ | ⟨-, e⟩
  · rw [e]; exact h hf
  · rw [e]; exact .refl s

/-! ### The timer queue -/

theorem eventBefore_trans {e f g : Event} (h : eventBefore e f) (k : eventBefore f g) : eventBefore e g := by
  unfold eventBefore at *
  omega

theorem TimerOk.insertEvent {s : State} (h : TimerOk s) (d c : Nat) (a : Int) (n : String) :
    TimerOk (insertEvent d c a n s) := by
  constructor
  · simp only [Machine.insertEvent, enqueue, List.append_assoc, List.pairwise_append, List.pairwise_cons,
      List.Pairwise.nil, List.mem_filter, decide_eq_true_eq, List.mem_append, List.mem_singleton,
      List.not_mem_nil, IsEmpty.forall_iff, implies_true, and_true, true_and]
    refine ⟨h.sorted.filter _, ⟨h.sorted.filter _, ?_⟩, ?_⟩
    · rintro x rfl y ⟨-, hy⟩
      exact .inl hy
    · rintro x ⟨hx, hxt⟩ y (rfl | ⟨-, hy⟩)
      · have := h.idsBelow x hx
        unfold eventBefore
        simp only
        omega
      · unfold eventBefore
        omega
  · intro e he
    simp only [Machine.insertEvent, mem_enqueue] at he ⊢
    rcases he with rfl | he
    · simp
    · exact (h.idsBelow e he).trans (Nat.lt_succ_self _)

theorem TimerOk.removeEvent {s : State} (h : TimerOk s) (id : Nat) : TimerOk (removeEvent id s) :=
  ⟨h.sorted.filter _, fun e he => h.idsBelow e (List.mem_filter.mp he).1⟩

theorem TimerOk.of_eq {s t : State} (h : TimerOk s) (q : t.queue = s.queue) (n : s.nextId ≤ t.nextId) : TimerOk t :=
  ⟨q ▸ h.sorted, fun e he => Nat.lt_of_lt_of_le (h.idsBelow e (q ▸ he)) n⟩

/-! ### Handlers -/

theorem applyAction_quiet (s : State) (a : Action) : Quiet s (applyAction s a) := by
  obtain ⟨h, -, hb, -⟩ := applyAction_spec s a
  refine ⟨h.now, h.taskNs, h.remain, h.inSlice, h.sliceEnd, h.cfg, h.mpc, h.hostCalls, h.budget, h.reply, hb,
    ?_, ?_, ?_⟩
  · cases a <;> first | exact Nat.le_refl _ | exact Nat.le_succ _
  · cases a <;> first | exact ⟨[], (List.append_nil _).symm⟩ | exact ⟨_, rfl⟩
  · intro ht
    cases a <;> first
      | exact ht.of_eq rfl (Nat.le_refl _)
      | exact ht.insertEvent ..
      | exact ht.removeEvent _

theorem runLines_quiet {lines : List ScriptLine} {s t : State} (h : runLines lines s = .ok t) : Quiet s t := by
  induction lines generalizing s with
  | nil =>
    obtain rfl : s = t := by simpa [runLines] using h
    exact .refl s
  | cons ln rest ih =>
    simp only [runLines] at h
    split at h
    · split at h
      · exact (applyAction_quiet s _).trans (ih h)
      · cases h
      · cases h
    · exact ih h

theorem raiseFatal_quiet (info : FatalInfo) (s : State) : Quiet s (raiseFatal info s) := by
  constructor <;> first
    | rfl
    | exact Nat.le_refl _
    | exact ⟨[], (List.append_nil _).symm⟩
    | exact fun h => h.of_eq rfl (Nat.le_refl _)

theorem callHandler_quiet (h : Handler) (arg : Option Int) (s : State) : Quiet s (callHandler h arg s) := by
  rcases callHandler_cases h arg s with ht | ⟨kind, reason, -, he⟩
  · exact runLines_quiet ht
  · rw [he]; exact raiseFatal_quiet _ _

/-- What a call can do, whatever the handler: it keeps the contract, the number of banks and the bits of NEXT2. -/
theorem callHandler_spec (h : Handler) (arg : Option Int) (s : State) :
    ContractKept s (callHandler h arg s) ∧
      s.next2 &&& (callHandler h arg s).next2 = s.next2 ∧
      (callHandler h arg s).sBanks.length = s.sBanks.length := by
  rcases callHandler_cases h arg s with ht | ⟨kind, reason, -, he⟩
  · obtain ⟨k1, -, k3, k4⟩ := runLines_spec ht
    exact ⟨k1, k4, k3⟩
  · rw [he]
    exact ⟨raiseFatal_kept _ _, BitVec.and_self, rfl⟩

/-! ### The steps before the task switch -/

/-- What the steps 5 to 8 keep beside `Quiet`: the threads' registers, the fetched word and, but for WRTRAM, the
store. -/
structure Threads (s t : State) : Prop where
  quiet : Quiet s t
  mir : t.mir = s.mir
  nextPc : t.nextPc = s.nextPc
  next2 : s.next2 &&& t.next2 = s.next2
  tmpc : t.tmpc = s.tmpc
  tnext2 : t.tnext2 = s.tnext2
  curTask : t.curTask = s.curTask
  nextTask : t.nextTask = s.nextTask

theorem Threads.refl (s : State) : Threads s s := by
  constructor <;> first | rfl | exact .refl s | exact BitVec.and_self

theorem Threads.trans {s t u : State} (h : Threads s t) (k : Threads t u) : Threads s u := by
  obtain ⟨a1, a2, a3, a4, a5, a6, a7, a8⟩ := h
  obtain ⟨b1, b2, b3, b4, b5, b6, b7, b8⟩ := k
  refine ⟨a1.trans b1, b2.trans a2, b3.trans a3, ?_, b5.trans a5, b6.trans a6, b7.trans a7, b8.trans a8⟩
  rw [← a4, BitVec.and_assoc, b4]

theorem Threads.unlessFatal {f : State → State} {s : State} (h : s.fatal = none → Threads s (f s)) :
    Threads s (unlessFatal f s) := by
  rcases unlessFatal_cases f s with ⟨hf, e⟩ | ⟨-, e⟩
  · rw [e]; exact h hf
  · rw [e]; exact .refl s

/-- An update of fields that are none of the kept ones. -/
theorem Threads.of_eqs {s t : State} (q : Quiet s t) (h1 : t.mir = s.mir) (h2 : t.nextPc = s.nextPc)
    (h3 : t.next2 = s.next2) (h4 : t.tmpc = s.tmpc) (h5 : t.tnext2 = s.tnext2) (h6 : t.curTask = s.curTask)
    (h7 : t.nextTask = s.nextTask) : Threads s t :=
  ⟨q, h1, h2, by rw [h3]; exact BitVec.and_self, h4, h5, h6, h7⟩

theorem callHandler_threads (h : Handler) (arg : Option Int) (s : State) : Threads s (callHandler h arg s) := by
  obtain ⟨k, k2, -⟩ := callHandler_spec h arg s
  exact ⟨callHandler_quiet h arg s, k.mir, k.nextPc, k2, k.tmpc, k.tnext2, k.curTask, k.nextTask⟩

/-- An update that keeps every field `Quiet` speaks of, but for new log entries. -/
theorem Quiet.of_eqs {s t : State} (new : List Anomaly) (h : t = { t with
    now := s.now, taskNs := s.taskNs, remain := s.remain, inSlice := s.inSlice, sliceEnd := s.sliceEnd, cfg := s.cfg
    mpc := s.mpc, hostCalls := s.hostCalls, budget := s.budget, reply := s.reply, sBanks := s.sBanks
    nextId := s.nextId, log := s.log ++ new, queue := s.queue }) : Quiet s t := by
  rw [h]
  constructor <;> first
    | rfl
    | exact Nat.le_refl _
    | exact ⟨new, rfl⟩
    | exact fun h => h.of_eq rfl (Nat.le_refl _)

theorem constantPath_threads (m : Micro) (s : State) : Threads s (constantPath m s) := by
  unfold constantPath
  split_ifs
  · exact .of_eqs (.of_eqs [] (by simp [driveBus])) rfl rfl rfl rfl rfl rfl rfl
  · exact .refl s

theorem rdramEffect_threads (s : State) : Threads s (rdramEffect s) := by
  unfold rdramEffect
  split_ifs
  · split
    · exact .of_eqs (.of_eqs [] (by simp [driveBus])) rfl rfl rfl rfl rfl rfl rfl
    · exact .of_eqs (.of_eqs [_] rfl) rfl rfl rfl rfl rfl rfl rfl
  · exact .refl s

theorem wrtramEffect_threads (s : State) : Threads s (wrtramEffect s) := by
  unfold wrtramEffect
  split_ifs
  · split
    · exact .of_eqs (.of_eqs [] (by simp [ucWrite])) rfl rfl rfl rfl rfl rfl rfl
    · exact .of_eqs (.of_eqs [_] rfl) rfl rfl rfl rfl rfl rfl rfl
  · exact .refl s

theorem formBus_threads (m : Micro) (s : State) : Threads s (formBus m s) := by
  have h : Threads s { s with bus := 0xFFFF#16 } := .of_eqs (.of_eqs [] (by simp)) rfl rfl rfl rfl rfl rfl rfl
  exact (h.trans (constantPath_threads m _)).trans (rdramEffect_threads _)

theorem raiseFatal_threads (info : FatalInfo) (s : State) : Threads s (raiseFatal info s) :=
  .of_eqs (raiseFatal_quiet info s) rfl rfl rfl rfl rfl rfl rfl

theorem runSlot_threads (fn : SlotFn) (field : Field) (phase : Phase) (code : Nat) (s : State) :
    Threads s (runSlot fn field phase code s) := by
  cases fn with
  | taskFunction =>
    cases phase with
    | late => exact .refl s
    | early =>
      simp only [runSlot, taskFunction]
      split
      · exact raiseFatal_threads _ _
      · exact .of_eqs (.of_eqs [] (by simp)) rfl rfl rfl rfl rfl rfl rfl
  | flagRdram => exact .of_eqs (.of_eqs [] (by simp [runSlot, flagRdram])) rfl rfl rfl rfl rfl rfl rfl
  | flagWrtram => exact .of_eqs (.of_eqs [] (by simp [runSlot, flagWrtram])) rfl rfl rfl rfl rfl rfl rfl
  | noEffect => exact .refl s
  | registered h => exact callHandler_threads h none s
  | stub => exact raiseFatal_threads _ _

theorem callBs_threads (phase : Phase) (code : BitVec 3) (s : State) : Threads s (callBs phase code s) :=
  .unlessFatal fun _ => runSlot_threads ..

theorem callF1_threads (phase : Phase) (code : BitVec 4) (s : State) : Threads s (callF1 phase code s) :=
  .unlessFatal fun _ => runSlot_threads ..

theorem callF2_threads (phase : Phase) (code : BitVec 4) (s : State) : Threads s (callF2 phase code s) :=
  .unlessFatal fun _ => runSlot_threads ..

theorem aluStep_threads (code : BitVec 4) (s : State) : Threads s (aluStep code s) := by
  simp only [aluStep]
  split_ifs
  · exact .of_eqs (.of_eqs [_] rfl) rfl rfl rfl rfl rfl rfl rfl
  · exact .of_eqs (.of_eqs [] (by simp [latchAlu])) rfl rfl rfl rfl rfl rfl rfl

theorem commit_threads (m : Micro) (s : State) : Threads s (commit m s) := by
  refine .unlessFatal fun _ => ?_
  simp only [commitT, commitL]
  split_ifs <;> exact .of_eqs (.of_eqs [] (by simp)) rfl rfl rfl rfl rfl rfl rfl

theorem earlyPhase_threads (m : Micro) (s : State) : Threads s (earlyPhase m s) :=
  ((callF2_threads ..).trans (callBs_threads ..)).trans (callF1_threads ..)

theorem aluAndWrtram_threads (m : Micro) (s : State) : Threads s (aluAndWrtram m s) :=
  .unlessFatal fun _ => (aluStep_threads ..).trans (wrtramEffect_threads _)

theorem latePhase_threads (m : Micro) (s : State) : Threads s (latePhase m s) :=
  ((callBs_threads ..).trans (callF1_threads ..)).trans (callF2_threads ..)

/-- Steps 5 to 8 of a microinstruction: everything before the task switch. -/
def beforeSwitch (m : Micro) (s : State) : State :=
  commit m (latePhase m (aluAndWrtram m (earlyPhase m (formBus m s))))

theorem executeSteps_eq (m : Micro) (s : State) : executeSteps m s = resolveSwitch (beforeSwitch m s) := rfl

theorem beforeSwitch_threads (m : Micro) (s : State) : Threads s (beforeSwitch m s) :=
  ((((formBus_threads m s).trans (earlyPhase_threads m _)).trans (aluAndWrtram_threads m _)).trans
    (latePhase_threads m _)).trans (commit_threads m _)

/-! ### The task switch -/

/-- What step 9 can do: nothing in the fatal state; pass the candidate on; or switch, after which only the activate
callback acts. -/
theorem resolveSwitch_cases (s : State) :
    (s.fatal ≠ none ∧ resolveSwitch s = s) ∨
    (s.fatal = none ∧ s.curTask = s.nextTask ∧ resolveSwitch s = { s with nextTask := s.nnTask }) ∨
    (s.fatal = none ∧ s.curTask ≠ s.nextTask ∧ resolveSwitch s = callActivate (switchTo s.nextTask s)) := by
  unfold resolveSwitch
  rcases unlessFatal_cases (fun s => if s.curTask = s.nextTask then { s with nextTask := s.nnTask }
    else callActivate (switchTo s.nextTask s)) s with ⟨hf, e⟩ | ⟨hf, e⟩
  · by_cases h : s.curTask = s.nextTask
    · exact .inr (.inl ⟨hf, h, by rw [e, if_pos h]⟩)
    · exact .inr (.inr ⟨hf, h, by rw [e, if_neg h]⟩)
  · exact .inl ⟨hf, e⟩

theorem callActivate_threads (s : State) : Threads s (callActivate s) := by
  unfold callActivate
  split
  · exact callHandler_threads ..
  · exact .refl s

theorem resolveSwitch_quiet (s : State) : Quiet s (resolveSwitch s) := by
  rcases resolveSwitch_cases s with ⟨-, e⟩ | ⟨-, -, e⟩ | ⟨-, -, e⟩ <;> rw [e]
  · exact .refl s
  · exact .of_eqs [] (by simp)
  · exact (Quiet.of_eqs [] (by simp [switchTo, saveTask, restoreTask])).trans (callActivate_threads _).quiet

/-! ### The whole microinstruction -/

/-- The three ways a microinstruction goes: nothing in the fatal state, decode alone when stalled, all its steps
otherwise. -/
theorem runMicro_cases (m : Micro) (s : State) :
    (s.fatal ≠ none ∧ runMicro m s = s) ∨
    (s.fatal = none ∧ isStalled (loadMir m s) = true ∧ runMicro m s = loadMir m s) ∨
    (s.fatal = none ∧ isStalled (loadMir m s) = false ∧
      runMicro m s = executeSteps m (advance m.next (loadMir m s))) := by
  unfold runMicro
  rcases unlessFatal_cases (fun s => if isStalled (loadMir m s) then loadMir m s
    else executeSteps m (advance m.next (loadMir m s))) s with ⟨hf, e⟩ | ⟨hf, e⟩
  · cases hs : isStalled (loadMir m s) with
    | true => exact .inr (.inl ⟨hf, rfl, by rw [e, hs, if_pos rfl]⟩)
    | false => exact .inr (.inr ⟨hf, rfl, by rw [e, hs]; rfl⟩)
  · exact .inl ⟨hf, e⟩

theorem executeSteps_quiet (m : Micro) (s : State) : Quiet s (executeSteps m s) :=
  (beforeSwitch_threads m s).quiet.trans (resolveSwitch_quiet _)

theorem runMicro_quiet (m : Micro) (s : State) : Quiet s (runMicro m s) := by
  rcases runMicro_cases m s with ⟨-, e⟩ | ⟨-, -, e⟩ | ⟨-, -, e⟩ <;> rw [e]
  · exact .refl s
  · exact .of_eqs [] (by simp [loadMir])
  · exact (Quiet.of_eqs [] (by simp [advance, loadMir])).trans (executeSteps_quiet m _)

/-! ### The dispatch tables -/

theorem collaboratorSlot_cases (table : List Registration) (phase : Phase) (k : Task) (code : Nat) :
    (∃ h, collaboratorSlot table phase k code = .registered h) ∨ collaboratorSlot table phase k code = .stub := by
  unfold collaboratorSlot
  split
  · exact .inl ⟨_, rfl⟩
  · exact .inr rfl

theorem bsSlot_cases (c : Config) (phase : Phase) (k : Task) (code : BitVec 3) :
    (∃ h, bsSlot c phase k code = .registered h) ∨ bsSlot c phase k code = .stub :=
  collaboratorSlot_cases ..

theorem f2Slot_cases (c : Config) (phase : Phase) (k : Task) (code : BitVec 4) :
    (∃ h, f2Slot c phase k code = .registered h) ∨ f2Slot c phase k code = .stub ∨
      f2Slot c phase k code = .noEffect := by
  unfold f2Slot coreF2
  split_ifs
  · exact .inr (.inr rfl)
  · rcases collaboratorSlot_cases c.fnF2 phase k code.toNat with h | h
    · exact .inl h
    · exact .inr (.inl h)

/-- What an early F1 slot can hold: TASK for the code of TASK and for no other, never a request flag. -/
theorem f1Slot_early_cases (c : Config) (k : Task) (code : BitVec 4) :
    (code = f1Task ∧ f1Slot c .early k code = .taskFunction) ∨
    (code ≠ f1Task ∧ ((∃ h, f1Slot c .early k code = .registered h) ∨ f1Slot c .early k code = .stub ∨
      f1Slot c .early k code = .noEffect)) := by
  unfold f1Slot coreF1
  rcases collaboratorSlot_cases c.fnF1 .early k code.toNat with ⟨h, e⟩ | e <;> simp only [e] <;> split_ifs <;> simp_all

/-- What a late F1 slot can hold. -/
theorem f1Slot_late_cases (c : Config) (k : Task) (code : BitVec 4) :
    (code = f1Task ∧ f1Slot c .late k code = .taskFunction) ∨
    (code ≠ f1Task ∧ ((∃ h, f1Slot c .late k code = .registered h) ∨ f1Slot c .late k code = .stub ∨
      f1Slot c .late k code = .noEffect ∨ f1Slot c .late k code = .flagRdram ∨
      f1Slot c .late k code = .flagWrtram)) := by
  unfold f1Slot coreF1
  rcases collaboratorSlot_cases c.fnF1 .late k code.toNat with ⟨h, e⟩ | e <;> simp only [e] <;> split_ifs <;> simp_all

/-! ### The contract, slot by slot -/

theorem ContractKept.unlessFatal {f : State → State} {s : State} (h : s.fatal = none → ContractKept s (f s)) :
    ContractKept s (unlessFatal f s) := by
  rcases unlessFatal_cases f s with ⟨hf, e⟩ | ⟨-, e⟩
  · rw [e]; exact h hf
  · rw [e]; exact .refl s

/-- No BS call writes outside the contract. -/
theorem callBs_kept (phase : Phase) (code : BitVec 3) (s : State) : ContractKept s (callBs phase code s) := by
  refine .unlessFatal fun _ => ?_
  rcases bsSlot_cases s.cfg phase s.curTask code with ⟨h, e⟩ | e <;> rw [e]
  · exact (callHandler_spec h none s).1
  · exact raiseFatal_kept _ _

/-- No F2 call writes outside the contract. -/
theorem callF2_kept (phase : Phase) (code : BitVec 4) (s : State) : ContractKept s (callF2 phase code s) := by
  refine .unlessFatal fun _ => ?_
  rcases f2Slot_cases s.cfg phase s.curTask code with ⟨h, e⟩ | e | e <;> rw [e]
  · exact (callHandler_spec h none s).1
  · exact raiseFatal_kept _ _
  · exact .refl s

/-- An early F1 call other than TASK keeps the contract; TASK writes NNTASK or the fatal state. -/
theorem callF1_early_spec (code : BitVec 4) (s : State) :
    ContractKept s { callF1 .early code s with nnTask := s.nnTask } ∧
      (code ≠ f1Task → ContractKept s (callF1 .early code s)) := by
  have hk : ContractKept s (callF1 .early code s) → ContractKept s { callF1 .early code s with nnTask := s.nnTask } :=
    fun h => by cases h; constructor <;> first | rfl | assumption
  have hu : ∀ u, ContractKept s u → ContractKept s { u with nnTask := s.nnTask } :=
    fun u h => by cases h; constructor <;> first | rfl | assumption
  unfold callF1
  rcases unlessFatal_cases (fun s => runSlot (f1Slot s.cfg .early s.curTask code) .f1 .early code.toNat s) s with
    ⟨-, e⟩ | ⟨-, e⟩ <;> rw [e]
  · rcases f1Slot_early_cases s.cfg s.curTask code with ⟨hc, e⟩ | ⟨hc, ⟨h, e⟩ | e | e⟩ <;> rw [e]
    · refine ⟨?_, fun h => absurd hc h⟩
      simp only [runSlot, taskFunction]
      split
      · exact hu _ (raiseFatal_kept _ _)
      · constructor <;> rfl
    · have := (callHandler_spec h none s).1
      exact ⟨hu _ this, fun _ => this⟩
    · exact ⟨hu _ (raiseFatal_kept _ _), fun _ => raiseFatal_kept _ _⟩
    · exact ⟨hu _ (.refl s), fun _ => .refl s⟩
  · exact ⟨hu _ (.refl s), fun _ => .refl s⟩

/-- A late F1 call writes at most the control RAM request outside the contract. -/
theorem callF1_late_spec (code : BitVec 4) (s : State) :
    ContractKept s { callF1 .late code s with
      rdramPend := s.rdramPend, wrtramPend := s.wrtramPend, cramAddr := s.cramAddr } := by
  have hu : ∀ u, ContractKept s u → ContractKept s { u with
      rdramPend := s.rdramPend, wrtramPend := s.wrtramPend, cramAddr := s.cramAddr } :=
    fun u h => by cases h; constructor <;> first | rfl | assumption
  unfold callF1
  rcases unlessFatal_cases (fun s => runSlot (f1Slot s.cfg .late s.curTask code) .f1 .late code.toNat s) s with
    ⟨-, e⟩ | ⟨-, e⟩ <;> rw [e]
  · rcases f1Slot_late_cases s.cfg s.curTask code with ⟨-, e⟩ | ⟨-, ⟨h, e⟩ | e | e | e | e⟩ <;> rw [e]
    · exact hu _ (.refl s)
    · exact hu _ (callHandler_spec h none s).1
    · exact hu _ (raiseFatal_kept _ _)
    · exact hu _ (.refl s)
    · constructor <;> rfl
    · constructor <;> rfl
  · exact hu _ (.refl s)

/-! ### The store -/

/-- The store is written by the WRTRAM effect alone: every other part keeps it. -/
theorem wrtramEffect_store (s : State) :
    (wrtramEffect s).store = s.store ∨
      ∃ a, s.wrtramPend = true ∧ wrtramTarget s.cfg s.cramAddr = some a ∧
        (wrtramEffect s).store = Memory.write s.store a (wrtramData s) := by
  unfold wrtramEffect
  split_ifs with h
  · split
    · rename_i a ha
      exact .inr ⟨a, h, ha, rfl⟩
    · exact .inl rfl
  · exact .inl rfl

/-- Before the ALU the store, a pending WRTRAM and its address are untouched. -/
theorem earlyPhase_store (m : Micro) (s : State) :
    (earlyPhase m (formBus m s)).store = s.store ∧ (earlyPhase m (formBus m s)).wrtramPend = s.wrtramPend ∧
      (earlyPhase m (formBus m s)).cramAddr = s.cramAddr := by
  have hb : (formBus m s).store = s.store ∧ (formBus m s).wrtramPend = s.wrtramPend ∧
      (formBus m s).cramAddr = s.cramAddr := by
    unfold formBus rdramEffect constantPath
    split_ifs <;> first | exact ⟨rfl, rfl, rfl⟩ | (split <;> exact ⟨rfl, rfl, rfl⟩)
  have h2 := callF2_kept .early m.f2 (formBus m s)
  have h3 := callBs_kept .early m.bs (callF2 .early m.f2 (formBus m s))
  have h1 := (callF1_early_spec m.f1 (callBs .early m.bs (callF2 .early m.f2 (formBus m s)))).1
  exact ⟨h1.store.trans (h3.store.trans (h2.store.trans hb.1)),
    h1.wrtramPend.trans (h3.wrtramPend.trans (h2.wrtramPend.trans hb.2.1)),
    h1.cramAddr.trans (h3.cramAddr.trans (h2.cramAddr.trans hb.2.2))⟩

theorem aluStep_store (code : BitVec 4) (s : State) :
    (aluStep code s).store = s.store ∧ (aluStep code s).wrtramPend = s.wrtramPend ∧
      (aluStep code s).cramAddr = s.cramAddr := by
  simp only [aluStep]
  split_ifs <;> exact ⟨rfl, rfl, rfl⟩

/-- Step 8 writes no store. -/
theorem commit_store (m : Micro) (s : State) : (commit m s).store = s.store := by
  unfold commit
  rcases unlessFatal_cases (fun s => commitT m.t (commitL m.l s)) s with ⟨-, e⟩ | ⟨-, e⟩ <;> rw [e]
  simp only [commitT, commitL]
  split_ifs <;> rfl

theorem latePhase_store (m : Micro) (s : State) : (latePhase m s).store = s.store :=
  (callF2_kept .late m.f2 _).store.trans ((callF1_late_spec m.f1 _).store.trans (callBs_kept .late m.bs s).store)

theorem callActivate_store (s : State) : (callActivate s).store = s.store := by
  unfold callActivate
  split
  · rename_i h _
    exact (callHandler_spec h none s).1.store
  · rfl

theorem resolveSwitch_store (s : State) : (resolveSwitch s).store = s.store := by
  rcases resolveSwitch_cases s with ⟨-, e⟩ | ⟨-, -, e⟩ | ⟨-, -, e⟩ <;> rw [e]
  exact callActivate_store _

/-- What an instruction can do to the store: nothing, or the one word a pending WRTRAM names. -/
theorem runMicro_store (m : Micro) (s : State) :
    (runMicro m s).store = s.store ∨
      ∃ a v, s.wrtramPend = true ∧ wrtramTarget s.cfg s.cramAddr = some a ∧
        (runMicro m s).store = Memory.write s.store a v := by
  rcases runMicro_cases m s with ⟨-, e⟩ | ⟨-, -, e⟩ | ⟨-, -, e⟩ <;> rw [e]
  · exact .inl rfl
  · exact .inl rfl
  · rw [executeSteps_eq, resolveSwitch_store]
    unfold beforeSwitch
    rw [commit_store, latePhase_store]
    have he := earlyPhase_store m (advance m.next (loadMir m s))
    have hc : (earlyPhase m (formBus m (advance m.next (loadMir m s)))).cfg = s.cfg :=
      ((formBus_threads m _).trans (earlyPhase_threads m _)).quiet.cfg
    generalize earlyPhase m (formBus m (advance m.next (loadMir m s))) = u at he hc
    unfold aluAndWrtram
    rcases unlessFatal_cases (fun s => wrtramEffect (aluStep m.aluf s)) u with ⟨-, e⟩ | ⟨-, e⟩ <;> rw [e]
    · obtain ⟨a1, a2, a3⟩ := aluStep_store m.aluf u
      have a4 : (aluStep m.aluf u).cfg = u.cfg := (aluStep_threads m.aluf u).quiet.cfg
      rcases wrtramEffect_store (aluStep m.aluf u) with h | ⟨a, h1, h2, h3⟩
      · exact .inl (h.trans (a1.trans he.1))
      · refine .inr ⟨a, _, ?_, ?_, h3.trans (by rw [a1, he.1]; rfl)⟩
        · exact (he.2.1.symm.trans (a2.symm.trans h1))
        · rw [← h2, a4, hc, a3, he.2.2]; rfl
    · exact .inl he.1

end Sys2Proof.Machine
end

