-- ==== Sys2Proof/Laws/PerInstr.lean ====
section
/-! SUPPORT. Statements made per instruction. `RowPattern`: the word of an instruction matches its row's mask and match
of spec/opcode_table.json, whatever its operands. -/

namespace Sys2Proof.Laws

/-- The mask of an instruction's row (spec/opcode_table.json). -/
def rowMask (i : Instr) : MicroWord :=
  match rowFamily i with
  | .alu => 0x07800000#32
  | .bs => 0x00700000#32
  | .f1 => 0x000F0000#32
  | .f2 => 0x0000F000#32
  | .loadT => 0x00000800#32
  | .loadL => 0x00000400#32

/-- The match of an instruction's row (spec/opcode_table.json). -/
def rowMatch : Instr → MicroWord
  | .aluBus .. => 0x00000000#32
  | .aluT .. => 0x00800000#32
  | .aluBusOrT .. => 0x01000000#32
  | .aluBusAndT .. => 0x01800000#32
  | .aluBusXorT .. => 0x02000000#32
  | .aluBusPlus1 .. => 0x02800000#32
  | .aluBusMinus1 .. => 0x03000000#32
  | .aluBusPlusT .. => 0x03800000#32
  | .aluBusMinusT .. => 0x04000000#32
  | .aluBusMinusTMinus1 .. => 0x04800000#32
  | .aluBusPlusTPlus1 .. => 0x05000000#32
  | .aluBusPlusSkip .. => 0x05800000#32
  | .aluBusDotT .. => 0x06000000#32
  | .aluBusAndNotT .. => 0x06800000#32
  | .aluUndef016 .. => 0x07000000#32
  | .aluUndef017 .. => 0x07800000#32
  | .bs0 .. => 0x00000000#32
  | .bs1 .. => 0x00100000#32
  | .bs2 .. => 0x00200000#32
  | .bs3 .. => 0x00300000#32
  | .bs4 .. => 0x00400000#32
  | .bs5 .. => 0x00500000#32
  | .bs6 .. => 0x00600000#32
  | .bs7 .. => 0x00700000#32
  | .f1Code0 .. => 0x00000000#32
  | .f1Code1 .. => 0x00010000#32
  | .f1Task .. => 0x00020000#32
  | .f1Code3 .. => 0x00030000#32
  | .f1Code4 .. => 0x00040000#32
  | .f1Code5 .. => 0x00050000#32
  | .f1Code6 .. => 0x00060000#32
  | .f1Const .. => 0x00070000#32
  | .f1Code10 .. => 0x00080000#32
  | .f1Wrtram .. => 0x00090000#32
  | .f1Rdram .. => 0x000A0000#32
  | .f1Code13 .. => 0x000B0000#32
  | .f1Code14 .. => 0x000C0000#32
  | .f1Code15 .. => 0x000D0000#32
  | .f1Code16 .. => 0x000E0000#32
  | .f1Code17 .. => 0x000F0000#32
  | .f2Code0 .. => 0x00000000#32
  | .f2Code1 .. => 0x00001000#32
  | .f2Code2 .. => 0x00002000#32
  | .f2Code3 .. => 0x00003000#32
  | .f2Code4 .. => 0x00004000#32
  | .f2Code5 .. => 0x00005000#32
  | .f2Code6 .. => 0x00006000#32
  | .f2Const .. => 0x00007000#32
  | .f2Code10 .. => 0x00008000#32
  | .f2Code11 .. => 0x00009000#32
  | .f2Code12 .. => 0x0000A000#32
  | .f2Code13 .. => 0x0000B000#32
  | .f2Code14 .. => 0x0000C000#32
  | .f2Code15 .. => 0x0000D000#32
  | .f2Code16 .. => 0x0000E000#32
  | .f2Code17 .. => 0x0000F000#32
  | .loadT .. => 0x00000800#32
  | .loadL .. => 0x00000400#32

theorem mask_aluf (m : Micro) : microWord m &&& 0x07800000#32 = placeField m.aluf 23 := by
  apply BitVec.eq_of_getLsbD_eq
  intro i hi
  simp only [BitVec.getLsbD_and, getLsbD_microWord, getLsbD_placeField]
  interval_cases i <;> simp

theorem mask_bs (m : Micro) : microWord m &&& 0x00700000#32 = placeField m.bs 20 := by
  apply BitVec.eq_of_getLsbD_eq
  intro i hi
  simp only [BitVec.getLsbD_and, getLsbD_microWord, getLsbD_placeField]
  interval_cases i <;> simp

theorem mask_f1 (m : Micro) : microWord m &&& 0x000F0000#32 = placeField m.f1 16 := by
  apply BitVec.eq_of_getLsbD_eq
  intro i hi
  simp only [BitVec.getLsbD_and, getLsbD_microWord, getLsbD_placeField]
  interval_cases i <;> simp

theorem mask_f2 (m : Micro) : microWord m &&& 0x0000F000#32 = placeField m.f2 12 := by
  apply BitVec.eq_of_getLsbD_eq
  intro i hi
  simp only [BitVec.getLsbD_and, getLsbD_microWord, getLsbD_placeField]
  interval_cases i <;> simp

theorem mask_t (m : Micro) : microWord m &&& 0x00000800#32 = placeField (BitVec.ofBool m.t) 11 := by
  apply BitVec.eq_of_getLsbD_eq
  intro i hi
  simp only [BitVec.getLsbD_and, getLsbD_microWord, getLsbD_placeField]
  interval_cases i <;> simp

theorem mask_l (m : Micro) : microWord m &&& 0x00000400#32 = placeField (BitVec.ofBool m.l) 10 := by
  apply BitVec.eq_of_getLsbD_eq
  intro i hi
  simp only [BitVec.getLsbD_and, getLsbD_microWord, getLsbD_placeField]
  interval_cases i <;> simp

/-- The word of the instruction, under its row's mask, is its row's match. -/
def RowPattern.Statement (i : Instr) : Prop := encode i &&& rowMask i = rowMatch i

theorem RowPattern.aluBus : ∀ rsel bs f1 f2 t l next, RowPattern.Statement (.aluBus rsel bs f1 f2 t l next) := by
  intros; exact (mask_aluf _).trans (show placeField 0#4 23 = 0x00000000#32 by decide)

theorem RowPattern.aluT : ∀ rsel bs f1 f2 t l next, RowPattern.Statement (.aluT rsel bs f1 f2 t l next) := by
  intros; exact (mask_aluf _).trans (show placeField 1#4 23 = 0x00800000#32 by decide)

theorem RowPattern.aluBusOrT : ∀ rsel bs f1 f2 t l next, RowPattern.Statement (.aluBusOrT rsel bs f1 f2 t l next) := by
  intros; exact (mask_aluf _).trans (show placeField 2#4 23 = 0x01000000#32 by decide)

theorem RowPattern.aluBusAndT : ∀ rsel bs f1 f2 t l next, RowPattern.Statement (.aluBusAndT rsel bs f1 f2 t l next) := by
  intros; exact (mask_aluf _).trans (show placeField 3#4 23 = 0x01800000#32 by decide)

theorem RowPattern.aluBusXorT : ∀ rsel bs f1 f2 t l next, RowPattern.Statement (.aluBusXorT rsel bs f1 f2 t l next) := by
  intros; exact (mask_aluf _).trans (show placeField 4#4 23 = 0x02000000#32 by decide)

theorem RowPattern.aluBusPlus1 : ∀ rsel bs f1 f2 t l next, RowPattern.Statement (.aluBusPlus1 rsel bs f1 f2 t l next) := by
  intros; exact (mask_aluf _).trans (show placeField 5#4 23 = 0x02800000#32 by decide)

theorem RowPattern.aluBusMinus1 : ∀ rsel bs f1 f2 t l next, RowPattern.Statement (.aluBusMinus1 rsel bs f1 f2 t l next) := by
  intros; exact (mask_aluf _).trans (show placeField 6#4 23 = 0x03000000#32 by decide)

theorem RowPattern.aluBusPlusT : ∀ rsel bs f1 f2 t l next, RowPattern.Statement (.aluBusPlusT rsel bs f1 f2 t l next) := by
  intros; exact (mask_aluf _).trans (show placeField 7#4 23 = 0x03800000#32 by decide)

theorem RowPattern.aluBusMinusT : ∀ rsel bs f1 f2 t l next, RowPattern.Statement (.aluBusMinusT rsel bs f1 f2 t l next) := by
  intros; exact (mask_aluf _).trans (show placeField 8#4 23 = 0x04000000#32 by decide)

theorem RowPattern.aluBusMinusTMinus1 : ∀ rsel bs f1 f2 t l next, RowPattern.Statement (.aluBusMinusTMinus1 rsel bs f1 f2 t l next) := by
  intros; exact (mask_aluf _).trans (show placeField 9#4 23 = 0x04800000#32 by decide)

theorem RowPattern.aluBusPlusTPlus1 : ∀ rsel bs f1 f2 t l next, RowPattern.Statement (.aluBusPlusTPlus1 rsel bs f1 f2 t l next) := by
  intros; exact (mask_aluf _).trans (show placeField 10#4 23 = 0x05000000#32 by decide)

theorem RowPattern.aluBusPlusSkip : ∀ rsel bs f1 f2 t l next, RowPattern.Statement (.aluBusPlusSkip rsel bs f1 f2 t l next) := by
  intros; exact (mask_aluf _).trans (show placeField 11#4 23 = 0x05800000#32 by decide)

theorem RowPattern.aluBusDotT : ∀ rsel bs f1 f2 t l next, RowPattern.Statement (.aluBusDotT rsel bs f1 f2 t l next) := by
  intros; exact (mask_aluf _).trans (show placeField 12#4 23 = 0x06000000#32 by decide)

theorem RowPattern.aluBusAndNotT : ∀ rsel bs f1 f2 t l next, RowPattern.Statement (.aluBusAndNotT rsel bs f1 f2 t l next) := by
  intros; exact (mask_aluf _).trans (show placeField 13#4 23 = 0x06800000#32 by decide)

theorem RowPattern.aluUndef016 : ∀ rsel bs f1 f2 t l next, RowPattern.Statement (.aluUndef016 rsel bs f1 f2 t l next) := by
  intros; exact (mask_aluf _).trans (show placeField 14#4 23 = 0x07000000#32 by decide)

theorem RowPattern.aluUndef017 : ∀ rsel bs f1 f2 t l next, RowPattern.Statement (.aluUndef017 rsel bs f1 f2 t l next) := by
  intros; exact (mask_aluf _).trans (show placeField 15#4 23 = 0x07800000#32 by decide)

theorem RowPattern.bs0 : ∀ rsel aluf f1 f2 t l next, RowPattern.Statement (.bs0 rsel aluf f1 f2 t l next) := by
  intros; exact (mask_bs _).trans (show placeField 0#3 20 = 0x00000000#32 by decide)

theorem RowPattern.bs1 : ∀ rsel aluf f1 f2 t l next, RowPattern.Statement (.bs1 rsel aluf f1 f2 t l next) := by
  intros; exact (mask_bs _).trans (show placeField 1#3 20 = 0x00100000#32 by decide)

theorem RowPattern.bs2 : ∀ rsel aluf f1 f2 t l next, RowPattern.Statement (.bs2 rsel aluf f1 f2 t l next) := by
  intros; exact (mask_bs _).trans (show placeField 2#3 20 = 0x00200000#32 by decide)

theorem RowPattern.bs3 : ∀ rsel aluf f1 f2 t l next, RowPattern.Statement (.bs3 rsel aluf f1 f2 t l next) := by
  intros; exact (mask_bs _).trans (show placeField 3#3 20 = 0x00300000#32 by decide)

theorem RowPattern.bs4 : ∀ rsel aluf f1 f2 t l next, RowPattern.Statement (.bs4 rsel aluf f1 f2 t l next) := by
  intros; exact (mask_bs _).trans (show placeField 4#3 20 = 0x00400000#32 by decide)

theorem RowPattern.bs5 : ∀ rsel aluf f1 f2 t l next, RowPattern.Statement (.bs5 rsel aluf f1 f2 t l next) := by
  intros; exact (mask_bs _).trans (show placeField 5#3 20 = 0x00500000#32 by decide)

theorem RowPattern.bs6 : ∀ rsel aluf f1 f2 t l next, RowPattern.Statement (.bs6 rsel aluf f1 f2 t l next) := by
  intros; exact (mask_bs _).trans (show placeField 6#3 20 = 0x00600000#32 by decide)

theorem RowPattern.bs7 : ∀ rsel aluf f1 f2 t l next, RowPattern.Statement (.bs7 rsel aluf f1 f2 t l next) := by
  intros; exact (mask_bs _).trans (show placeField 7#3 20 = 0x00700000#32 by decide)

theorem RowPattern.f1Code0 : ∀ rsel aluf bs f2 t l next, RowPattern.Statement (.f1Code0 rsel aluf bs f2 t l next) := by
  intros; exact (mask_f1 _).trans (show placeField 0#4 16 = 0x00000000#32 by decide)

theorem RowPattern.f1Code1 : ∀ rsel aluf bs f2 t l next, RowPattern.Statement (.f1Code1 rsel aluf bs f2 t l next) := by
  intros; exact (mask_f1 _).trans (show placeField 1#4 16 = 0x00010000#32 by decide)

theorem RowPattern.f1Task : ∀ rsel aluf bs f2 t l next, RowPattern.Statement (.f1Task rsel aluf bs f2 t l next) := by
  intros; exact (mask_f1 _).trans (show placeField 2#4 16 = 0x00020000#32 by decide)

theorem RowPattern.f1Code3 : ∀ rsel aluf bs f2 t l next, RowPattern.Statement (.f1Code3 rsel aluf bs f2 t l next) := by
  intros; exact (mask_f1 _).trans (show placeField 3#4 16 = 0x00030000#32 by decide)

theorem RowPattern.f1Code4 : ∀ rsel aluf bs f2 t l next, RowPattern.Statement (.f1Code4 rsel aluf bs f2 t l next) := by
  intros; exact (mask_f1 _).trans (show placeField 4#4 16 = 0x00040000#32 by decide)

theorem RowPattern.f1Code5 : ∀ rsel aluf bs f2 t l next, RowPattern.Statement (.f1Code5 rsel aluf bs f2 t l next) := by
  intros; exact (mask_f1 _).trans (show placeField 5#4 16 = 0x00050000#32 by decide)

theorem RowPattern.f1Code6 : ∀ rsel aluf bs f2 t l next, RowPattern.Statement (.f1Code6 rsel aluf bs f2 t l next) := by
  intros; exact (mask_f1 _).trans (show placeField 6#4 16 = 0x00060000#32 by decide)

theorem RowPattern.f1Const : ∀ rsel aluf bs f2 t l next, RowPattern.Statement (.f1Const rsel aluf bs f2 t l next) := by
  intros; exact (mask_f1 _).trans (show placeField 7#4 16 = 0x00070000#32 by decide)

theorem RowPattern.f1Code10 : ∀ rsel aluf bs f2 t l next, RowPattern.Statement (.f1Code10 rsel aluf bs f2 t l next) := by
  intros; exact (mask_f1 _).trans (show placeField 8#4 16 = 0x00080000#32 by decide)

theorem RowPattern.f1Wrtram : ∀ rsel aluf bs f2 t l next, RowPattern.Statement (.f1Wrtram rsel aluf bs f2 t l next) := by
  intros; exact (mask_f1 _).trans (show placeField 9#4 16 = 0x00090000#32 by decide)

theorem RowPattern.f1Rdram : ∀ rsel aluf bs f2 t l next, RowPattern.Statement (.f1Rdram rsel aluf bs f2 t l next) := by
  intros; exact (mask_f1 _).trans (show placeField 10#4 16 = 0x000A0000#32 by decide)

theorem RowPattern.f1Code13 : ∀ rsel aluf bs f2 t l next, RowPattern.Statement (.f1Code13 rsel aluf bs f2 t l next) := by
  intros; exact (mask_f1 _).trans (show placeField 11#4 16 = 0x000B0000#32 by decide)

theorem RowPattern.f1Code14 : ∀ rsel aluf bs f2 t l next, RowPattern.Statement (.f1Code14 rsel aluf bs f2 t l next) := by
  intros; exact (mask_f1 _).trans (show placeField 12#4 16 = 0x000C0000#32 by decide)

theorem RowPattern.f1Code15 : ∀ rsel aluf bs f2 t l next, RowPattern.Statement (.f1Code15 rsel aluf bs f2 t l next) := by
  intros; exact (mask_f1 _).trans (show placeField 13#4 16 = 0x000D0000#32 by decide)

theorem RowPattern.f1Code16 : ∀ rsel aluf bs f2 t l next, RowPattern.Statement (.f1Code16 rsel aluf bs f2 t l next) := by
  intros; exact (mask_f1 _).trans (show placeField 14#4 16 = 0x000E0000#32 by decide)

theorem RowPattern.f1Code17 : ∀ rsel aluf bs f2 t l next, RowPattern.Statement (.f1Code17 rsel aluf bs f2 t l next) := by
  intros; exact (mask_f1 _).trans (show placeField 15#4 16 = 0x000F0000#32 by decide)

theorem RowPattern.f2Code0 : ∀ rsel aluf bs f1 t l next, RowPattern.Statement (.f2Code0 rsel aluf bs f1 t l next) := by
  intros; exact (mask_f2 _).trans (show placeField 0#4 12 = 0x00000000#32 by decide)

theorem RowPattern.f2Code1 : ∀ rsel aluf bs f1 t l next, RowPattern.Statement (.f2Code1 rsel aluf bs f1 t l next) := by
  intros; exact (mask_f2 _).trans (show placeField 1#4 12 = 0x00001000#32 by decide)

theorem RowPattern.f2Code2 : ∀ rsel aluf bs f1 t l next, RowPattern.Statement (.f2Code2 rsel aluf bs f1 t l next) := by
  intros; exact (mask_f2 _).trans (show placeField 2#4 12 = 0x00002000#32 by decide)

theorem RowPattern.f2Code3 : ∀ rsel aluf bs f1 t l next, RowPattern.Statement (.f2Code3 rsel aluf bs f1 t l next) := by
  intros; exact (mask_f2 _).trans (show placeField 3#4 12 = 0x00003000#32 by decide)

theorem RowPattern.f2Code4 : ∀ rsel aluf bs f1 t l next, RowPattern.Statement (.f2Code4 rsel aluf bs f1 t l next) := by
  intros; exact (mask_f2 _).trans (show placeField 4#4 12 = 0x00004000#32 by decide)

theorem RowPattern.f2Code5 : ∀ rsel aluf bs f1 t l next, RowPattern.Statement (.f2Code5 rsel aluf bs f1 t l next) := by
  intros; exact (mask_f2 _).trans (show placeField 5#4 12 = 0x00005000#32 by decide)

theorem RowPattern.f2Code6 : ∀ rsel aluf bs f1 t l next, RowPattern.Statement (.f2Code6 rsel aluf bs f1 t l next) := by
  intros; exact (mask_f2 _).trans (show placeField 6#4 12 = 0x00006000#32 by decide)

theorem RowPattern.f2Const : ∀ rsel aluf bs f1 t l next, RowPattern.Statement (.f2Const rsel aluf bs f1 t l next) := by
  intros; exact (mask_f2 _).trans (show placeField 7#4 12 = 0x00007000#32 by decide)

theorem RowPattern.f2Code10 : ∀ rsel aluf bs f1 t l next, RowPattern.Statement (.f2Code10 rsel aluf bs f1 t l next) := by
  intros; exact (mask_f2 _).trans (show placeField 8#4 12 = 0x00008000#32 by decide)

theorem RowPattern.f2Code11 : ∀ rsel aluf bs f1 t l next, RowPattern.Statement (.f2Code11 rsel aluf bs f1 t l next) := by
  intros; exact (mask_f2 _).trans (show placeField 9#4 12 = 0x00009000#32 by decide)

theorem RowPattern.f2Code12 : ∀ rsel aluf bs f1 t l next, RowPattern.Statement (.f2Code12 rsel aluf bs f1 t l next) := by
  intros; exact (mask_f2 _).trans (show placeField 10#4 12 = 0x0000A000#32 by decide)

theorem RowPattern.f2Code13 : ∀ rsel aluf bs f1 t l next, RowPattern.Statement (.f2Code13 rsel aluf bs f1 t l next) := by
  intros; exact (mask_f2 _).trans (show placeField 11#4 12 = 0x0000B000#32 by decide)

theorem RowPattern.f2Code14 : ∀ rsel aluf bs f1 t l next, RowPattern.Statement (.f2Code14 rsel aluf bs f1 t l next) := by
  intros; exact (mask_f2 _).trans (show placeField 12#4 12 = 0x0000C000#32 by decide)

theorem RowPattern.f2Code15 : ∀ rsel aluf bs f1 t l next, RowPattern.Statement (.f2Code15 rsel aluf bs f1 t l next) := by
  intros; exact (mask_f2 _).trans (show placeField 13#4 12 = 0x0000D000#32 by decide)

theorem RowPattern.f2Code16 : ∀ rsel aluf bs f1 t l next, RowPattern.Statement (.f2Code16 rsel aluf bs f1 t l next) := by
  intros; exact (mask_f2 _).trans (show placeField 14#4 12 = 0x0000E000#32 by decide)

theorem RowPattern.f2Code17 : ∀ rsel aluf bs f1 t l next, RowPattern.Statement (.f2Code17 rsel aluf bs f1 t l next) := by
  intros; exact (mask_f2 _).trans (show placeField 15#4 12 = 0x0000F000#32 by decide)

theorem RowPattern.loadT : ∀ rsel aluf bs f1 f2 l next, RowPattern.Statement (.loadT rsel aluf bs f1 f2 l next) := by
  intros; exact (mask_t _).trans (show placeField (BitVec.ofBool true) 11 = 0x00000800#32 by decide)

theorem RowPattern.loadL : ∀ rsel aluf bs f1 f2 t next, RowPattern.Statement (.loadL rsel aluf bs f1 f2 t next) := by
  intros; exact (mask_l _).trans (show placeField (BitVec.ofBool true) 10 = 0x00000400#32 by decide)

end Sys2Proof.Laws
end

