-- ==== Sys2Proof/Laws/Slice.lean ====
section
/-! SUPPORT. What surrounds an instruction: the tick hook, the steps before the fetch, the three ways a microcycle goes,
and the two ways a turn of the slice goes. -/

namespace Sys2Proof.Machine

/-- The tick hook leaves the threads' registers as they are. -/
theorem tick_threads (s : State) : Threads s (tick s) := by
  unfold tick
  split
  · exact callHandler_threads ..
  · exact .refl s

/-- The tick hook keeps the handler contract. -/
theorem tick_kept (s : State) : ContractKept s (tick s) := by
  unfold tick
  split
  · exact (callHandler_spec _ _ _).1
  · exact .refl s

theorem tick_none {s : State} (h : s.cfg.tick = none) : tick s = s := by
  simp [tick, h]

/-- Before the fetch nothing but the tick hook and the accounting has happened: the contract holds against the accounted
state. -/
theorem beforeFetch_kept (s : State) : ContractKept (account s) (beforeFetch s) := tick_kept (account s)

theorem beforeFetch_threads (s : State) : Threads (account s) (beforeFetch s) := tick_threads (account s)

/-- The three ways a microcycle goes: a fatal tick ends it, a fetch outside the store stops the machine, and otherwise the
fetched word's microinstruction runs. -/
theorem microcycle_cases (s : State) :
    ((beforeFetch s).fatal ≠ none ∧ microcycle s = .next (beforeFetch s)) ∨
    ((beforeFetch s).fatal = none ∧ inStore (beforeFetch s).cfg (fetchAddress (beforeFetch s)) = false ∧
      microcycle s = .fault (.microAddressOutsideStore (fetchAddress (beforeFetch s)).toNat)) ∨
    ((beforeFetch s).fatal = none ∧ inStore (beforeFetch s).cfg (fetchAddress (beforeFetch s)) = true ∧
      microcycle s = .next (runMicro (decodeMicro (ucRead (beforeFetch s) (fetchAddress (beforeFetch s)).toNat))
        (fetch (beforeFetch s)))) := by
  unfold microcycle
  simp only
  split_ifs with h1 h2
  · exact .inl ⟨Option.isSome_iff_ne_none.mp h1, rfl⟩
  · refine .inr (.inr ⟨by simpa using h1, h2, ?_⟩)
    rw [exec_eq, microOf_decode]
  · exact .inr (.inl ⟨by simpa using h1, by simpa using h2, rfl⟩)

/-- A turn of the slice whose microcycle answers. -/
theorem sliceStep_next {s t : State} (hm : sliceMayRun s = true) (h : microcycle s = .next t) :
    sliceStep s = .next (afterCycle t) := by
  simp [sliceStep, hm, h]

/-- A turn of the slice whose loop test fails ends it. -/
theorem sliceStep_over {s : State} (hm : sliceMayRun s = false) : sliceStep s = .next (endSlice s) := by
  simp [sliceStep, hm]

/-- The loop test: the budget is not used up, no event cut the slice short, and the hardware runs. -/
theorem sliceMayRun_iff (s : State) : sliceMayRun s = true ↔ 0 < s.remain ∧ s.leave = false ∧ s.fatal = none := by
  simp [sliceMayRun, and_assoc]

/-- After a microcycle the slice goes on as it is, or ends. -/
theorem afterCycle_cases (t : State) :
    (sliceMayRun t = true ∧ afterCycle t = t) ∨ (sliceMayRun t = false ∧ afterCycle t = endSlice t) := by
  unfold afterCycle
  split_ifs with h
  · exact .inl ⟨h, rfl⟩
  · exact .inr ⟨by simpa using h, rfl⟩

/-! ### The launch's events -/

/-- What the initial timer events do: the handler contract holds, each event gets the next id and a time counted from NOW, and
nothing else is queued. -/
theorem insertAll_spec (events : List InitialEvent) (s : State) :
    ContractKept s (insertAll events s) ∧ (insertAll events s).nextId = s.nextId + events.length ∧
      ∀ e : Event, e ∈ (insertAll events s).queue ↔
        e ∈ s.queue ∨ ∃ k x, events[k]? = some x ∧
          e = ⟨s.nextId + k, s.now + x.delay, x.callback, x.arg, x.name⟩ := by
  induction events generalizing s with
  | nil => exact ⟨.refl s, rfl, by simp [insertAll]⟩
  | cons x rest ih =>
    obtain ⟨k1, k2, k3⟩ := ih (insertEvent x.delay x.callback x.arg x.name s)
    refine ⟨(by constructor <;> rfl : ContractKept s (insertEvent _ _ _ _ s)).trans k1, ?_, fun e => ?_⟩
    · exact k2.trans (by simp only [insertEvent_nextId, List.length_cons]; omega)
    · refine (k3 e).trans ?_
      simp only [insertEvent_queue, insertEvent_nextId, insertEvent_now, mem_enqueue]
      constructor
      · rintro ((h | h) | ⟨k, y, hy, h⟩)
        · exact .inr ⟨0, x, rfl, h⟩
        · exact .inl h
        · exact .inr ⟨k + 1, y, hy, by rw [h, Nat.add_right_comm, Nat.add_assoc]⟩
      · rintro (h | ⟨k, y, hy, h⟩)
        · exact .inl (.inr h)
        · cases k with
          | zero => obtain rfl := Option.some.inj hy; exact .inl (.inl h)
          | succ k => exact .inr ⟨k, y, hy, by rw [h, Nat.add_right_comm, Nat.add_assoc]⟩

/-- The initial timer events keep the queue in order. -/
theorem TimerOk.insertAll {s : State} (h : TimerOk s) (events : List InitialEvent) : TimerOk (insertAll events s) := by
  induction events generalizing s with
  | nil => exact h
  | cons x rest ih => exact ih (h.insertEvent ..)

end Sys2Proof.Machine
end

