-- ==== Sys2Proof/Tests/Slice0.lean ====
section
/-! SUPPORT. Tests. Words and expected values are those of spec/95_test_vectors.md and the examples of the rules, or computed by
hand from the layout of R80; and for every statement with hypotheses a witness that meets them. -/

namespace Sys2Proof.Tests

-- One thread for the tests: elaborated side by side they would each wait for the kernel on a stack of their own.
set_option Elab.async false

open Sys2Proof.Machine

/-! ### Helpers -/

/-- Whether an outcome is a next state. -/
def answers (o : Host.Outcome State Fault Refusal) : Bool :=
  match o with
  | .next _ => true
  | .fault _ => false
  | .refused _ => false

theorem next_of_answers {o : Host.Outcome State Fault Refusal} (h : answers o = true) : ∃ t, o = .next t := by
  cases o with
  | next t => exact ⟨t, rfl⟩
  | fault f => cases h
  | refused r => cases h

/-- Whether an outcome is a next state with a property. -/
def leaves (o : Host.Outcome State Fault Refusal) (p : State → Bool) : Bool :=
  match o with
  | .next t => p t
  | .fault _ => false
  | .refused _ => false

/-- Whether an outcome is a refusal with a given reason. -/
def refuses (o : Host.Outcome State Fault Refusal) (r : Refusal) : Bool :=
  match o with
  | .next _ => false
  | .fault _ => false
  | .refused q => decide (q = r)

/-- The default configuration with a constant ROM. -/
def withConstants (rom : List (Nat × Word)) : Config := { defaultConfig with constRom := rom }

/-- The reset state of a configuration. -/
def resetOf (c : Config) : State := State.init c []

/-- One step of a state with a word placed where it fetches. -/
def stepWord (s : State) (w : Nat) : Host.Outcome State Fault Refusal := step (s.withFetchWord 32 w)

/-! ### Decoding: one word of every row -/

/-- The alu rows: each word is the row's match bits (R80), with the other codes 0, or all 1 for the code 0. -/
theorem test_decode_alu_rows :
    decode 0x00000000#32 = .aluBus 0 0 0 0 false false 0 ∧
    decode 0x00800000#32 = .aluT 0 0 0 0 false false 0 ∧
    decode 0x01000000#32 = .aluBusOrT 0 0 0 0 false false 0 ∧
    decode 0x01800000#32 = .aluBusAndT 0 0 0 0 false false 0 ∧
    decode 0x02000000#32 = .aluBusXorT 0 0 0 0 false false 0 ∧
    decode 0x02800000#32 = .aluBusPlus1 0 0 0 0 false false 0 ∧
    decode 0x03000000#32 = .aluBusMinus1 0 0 0 0 false false 0 ∧
    decode 0x03800000#32 = .aluBusPlusT 0 0 0 0 false false 0 ∧
    decode 0x04000000#32 = .aluBusMinusT 0 0 0 0 false false 0 ∧
    decode 0x04800000#32 = .aluBusMinusTMinus1 0 0 0 0 false false 0 ∧
    decode 0x05000000#32 = .aluBusPlusTPlus1 0 0 0 0 false false 0 ∧
    decode 0x05800000#32 = .aluBusPlusSkip 0 0 0 0 false false 0 ∧
    decode 0x06000000#32 = .aluBusDotT 0 0 0 0 false false 0 ∧
    decode 0x06800000#32 = .aluBusAndNotT 0 0 0 0 false false 0 ∧
    decode 0x07000000#32 = .aluUndef016 0 0 0 0 false false 0 ∧
    decode 0x07800000#32 = .aluUndef017 0 0 0 0 false false 0 := by
  decide

/-- The bs rows: each word is the row's match bits (R80), with the other codes 0, or all 1 for the code 0. -/
theorem test_decode_bs_rows :
    decode 0x00811000#32 = .bs0 0 1 1 1 false false 0 ∧
    decode 0x00100000#32 = .bs1 0 0 0 0 false false 0 ∧
    decode 0x00200000#32 = .bs2 0 0 0 0 false false 0 ∧
    decode 0x00300000#32 = .bs3 0 0 0 0 false false 0 ∧
    decode 0x00400000#32 = .bs4 0 0 0 0 false false 0 ∧
    decode 0x00500000#32 = .bs5 0 0 0 0 false false 0 ∧
    decode 0x00600000#32 = .bs6 0 0 0 0 false false 0 ∧
    decode 0x00700000#32 = .bs7 0 0 0 0 false false 0 := by
  decide

/-- The f1 rows: each word is the row's match bits (R80), with the other codes 0, or all 1 for the code 0. -/
theorem test_decode_f1_rows :
    decode 0x00901000#32 = .f1Code0 0 1 1 1 false false 0 ∧
    decode 0x00010000#32 = .f1Code1 0 0 0 0 false false 0 ∧
    decode 0x00020000#32 = .f1Task 0 0 0 0 false false 0 ∧
    decode 0x00030000#32 = .f1Code3 0 0 0 0 false false 0 ∧
    decode 0x00040000#32 = .f1Code4 0 0 0 0 false false 0 ∧
    decode 0x00050000#32 = .f1Code5 0 0 0 0 false false 0 ∧
    decode 0x00060000#32 = .f1Code6 0 0 0 0 false false 0 ∧
    decode 0x00070000#32 = .f1Const 0 0 0 0 false false 0 ∧
    decode 0x00080000#32 = .f1Code10 0 0 0 0 false false 0 ∧
    decode 0x00090000#32 = .f1Wrtram 0 0 0 0 false false 0 ∧
    decode 0x000A0000#32 = .f1Rdram 0 0 0 0 false false 0 ∧
    decode 0x000B0000#32 = .f1Code13 0 0 0 0 false false 0 ∧
    decode 0x000C0000#32 = .f1Code14 0 0 0 0 false false 0 ∧
    decode 0x000D0000#32 = .f1Code15 0 0 0 0 false false 0 ∧
    decode 0x000E0000#32 = .f1Code16 0 0 0 0 false false 0 ∧
    decode 0x000F0000#32 = .f1Code17 0 0 0 0 false false 0 := by
  decide

/-- The f2 rows: each word is the row's match bits (R80), with the other codes 0, or all 1 for the code 0. -/
theorem test_decode_f2_rows :
    decode 0x00910000#32 = .f2Code0 0 1 1 1 false false 0 ∧
    decode 0x00001000#32 = .f2Code1 0 0 0 0 false false 0 ∧
    decode 0x00002000#32 = .f2Code2 0 0 0 0 false false 0 ∧
    decode 0x00003000#32 = .f2Code3 0 0 0 0 false false 0 ∧
    decode 0x00004000#32 = .f2Code4 0 0 0 0 false false 0 ∧
    decode 0x00005000#32 = .f2Code5 0 0 0 0 false false 0 ∧
    decode 0x00006000#32 = .f2Code6 0 0 0 0 false false 0 ∧
    decode 0x00007000#32 = .f2Const 0 0 0 0 false false 0 ∧
    decode 0x00008000#32 = .f2Code10 0 0 0 0 false false 0 ∧
    decode 0x00009000#32 = .f2Code11 0 0 0 0 false false 0 ∧
    decode 0x0000A000#32 = .f2Code12 0 0 0 0 false false 0 ∧
    decode 0x0000B000#32 = .f2Code13 0 0 0 0 false false 0 ∧
    decode 0x0000C000#32 = .f2Code14 0 0 0 0 false false 0 ∧
    decode 0x0000D000#32 = .f2Code15 0 0 0 0 false false 0 ∧
    decode 0x0000E000#32 = .f2Code16 0 0 0 0 false false 0 ∧
    decode 0x0000F000#32 = .f2Code17 0 0 0 0 false false 0 := by
  decide

/-- LOAD_T and LOAD_L: the word with the one bit (R80). -/
theorem test_decode_load_rows :
    decode 0x00000800#32 = .loadT 0 0 0 0 0 false 0 ∧
    decode 0x00000400#32 = .loadL 0 0 0 0 0 false 0 := by
  decide

/-- Vector V3.1, and the branch word of P1: all fields read, at their places. -/
theorem test_decode_spec_words :
    decodeMicro 0x002A7001#32 = ⟨0, 0, 2, 10, 7, false, false, 1⟩ ∧
    decodeMicro 0x08270801#32 = ⟨1, 0, 2, 7, 0, true, false, 1⟩ ∧
    decodeMicro 0x23100806#32 = ⟨4, 6, 1, 0, 0, true, false, 6⟩ ∧
    decodeMicro 0x1C271004#32 = ⟨3, 8, 2, 7, 1, false, false, 4⟩ ∧
    decodeMicro 0xFFFFFFFF#32 = ⟨31, 15, 7, 15, 15, true, true, 1023⟩ := by
  decide

/-- The encoder writes the words of V3.1. -/
theorem test_encode_spec_words :
    encode (.f1Rdram 0 0 2 7 false false 1) = 0x002A7001#32 ∧
    encode (.loadT 1 0 2 7 0 false 1) = 0x08270801#32 ∧
    encode (.aluBusMinus1 4 1 0 0 true false 6) = 0x23100806#32 := by
  decide

/-- The host's view: 32 bits or fewer are a word, more are refused (R91). -/
theorem test_decodeTableWord :
    decodeTableWord 32 0x23100806 = some (.aluBusMinus1 4 1 0 0 true false 6) ∧
    decodeTableWord 16 0xF0806 = some (decode 0x00000806#32) ∧
    decodeTableWord 48 0x23100806 = none := by
  decide

/-! ### Well-formedness: each check refuses an ill-formed term -/

/-- An instruction whose row is not the one that names its word is not well-formed; one whose row is, is. -/
theorem test_illformed_instruction :
    Instr.wellFormed (.bs0 0 0 0 0 false false 0) = false ∧ Instr.wellFormed (.loadT 0 1 0 0 0 false 0) = false ∧
    Instr.wellFormed (.aluBus 0 0 0 0 false false 0) = true := by
  decide

theorem test_default_config_accepted : defaultConfig.wellFormed = true := by
  decide +kernel

theorem test_illformed_counts :
    countsOk { defaultConfig with romPages := 0 } = false ∧ countsOk { defaultConfig with nsBank := 0 } = false ∧
    countsOk { defaultConfig with cycleNs := 0 } = false := by
  decide

theorem test_illformed_resetMpc :
    resetMpcOk { defaultConfig with resetMpc := defaultResetMpc.set 15 2048 } = false ∧
    resetMpcOk { defaultConfig with resetMpc := defaultResetMpc.set 15 2047 } = true := by
  decide +kernel

theorem test_illformed_f1Codes :
    f1CodesOk { defaultConfig with f1Const := 2 } = false ∧
    f1CodesOk { defaultConfig with f1Wrtram := 10 } = false := by
  decide

theorem test_illformed_bsRegistrations :
    bsRegistrationsOk { defaultConfig with fnBs := [⟨.early, 0, 8, inertHandler⟩] } = false := by
  decide

/-- TASK in every task, and RDRAM in a task of RAM_TASKS, are the core's; RDRAM's code in task 5 is not. -/
theorem test_illformed_f1Registrations :
    f1RegistrationsOk { defaultConfig with fnF1 := [⟨.late, 5, 2, inertHandler⟩] } = false ∧
    f1RegistrationsOk { defaultConfig with fnF1 := [⟨.late, 0, 10, inertHandler⟩] } = false ∧
    f1RegistrationsOk { defaultConfig with fnF1 := [⟨.late, 5, 10, inertHandler⟩] } = true := by
  decide

theorem test_illformed_f2Registrations :
    f2RegistrationsOk { defaultConfig with fnF2 := [⟨.early, 3, 7, inertHandler⟩] } = false := by
  decide

theorem test_illformed_constRom :
    constRomOk { defaultConfig with constRom := [(256, 1)] } = false ∧
    constRomOk { defaultConfig with constRom := [(2, 1), (1, 1)] } = false ∧
    constRomOk { defaultConfig with constRom := [(255, 1)] } = true := by
  decide

/-- A handler that names a bank that does not exist. -/
theorem test_illformed_handlers :
    handlersOk { defaultConfig with tick := some (oneAction (.setS 1 .bus)) } = false ∧
    handlersOk { defaultConfig with stall := .whenever (.isZero (.s 1)) } = false := by
  decide +kernel

/-- The step and the launch refuse an ill-formed configuration by name, and the launch an image that lists a word outside `U` or
is not in canonical form (R264, R60). -/
theorem test_illformed_refused :
    refuses (step (resetOf { defaultConfig with cycleNs := 0 })) .illFormedConfiguration = true ∧
    refuses (launch { defaultConfig with f2Const := 1 } [] []) .illFormedConfiguration = true ∧
    refuses (launch defaultConfig [(2048, 1)] []) .illFormedImage = true ∧
    refuses (launch defaultConfig [(1, 1), (0, 1)] []) .illFormedImage = true := by
  decide +kernel

/-! ### Reset -/

theorem test_reset_memory_wf : Memory.wf State.reset.store = true := by
  decide

/-- R262: WAKEUP, BUS, NEXT_ID and a saved micro-PC. -/
theorem test_reset_values :
    State.reset.wakeup = 0x0001#16 ∧ State.reset.bus = 0xFFFF#16 ∧ State.reset.nextId = 1 ∧
    State.reset.tmpc[5].toNat = 5 ∧ State.reset.nextPc.toNat = 0 := by
  decide +kernel

/-! ### The ALU: section 2 of spec/95_test_vectors.md -/

/-- One row of the table: the T source, and for each pair of operands the result and carry with carry-in 0 and 1. -/
def aluRow (code : BitVec 4) (tsel : Bool) (cells : List (Word × Word × (Word × Bool) × (Word × Bool))) : Bool :=
  cells.all fun ⟨a, b, r0, r1⟩ =>
    decide (alu defaultConfig a b code false = ⟨r0.1, r0.2, tsel⟩) &&
    decide (alu defaultConfig a b code true = ⟨r1.1, r1.2, tsel⟩)

/-- A row whose two carry-ins agree. -/
def aluRowSame (code : BitVec 4) (tsel : Bool) (r : Vector (Word × Bool) 5) : Bool :=
  aluRow code tsel
    [(0x1234, 0x00FF, r[0], r[0]), (0xFFFF, 0x0001, r[1], r[1]), (0x0000, 0x0000, r[2], r[2]),
     (0x8000, 0x8000, r[3], r[3]), (0x0005, 0x0007, r[4], r[4])]

/-- R140: BUS + SKIP reads the carry-in at code 013 alone, also where the table holds it at another code. -/
theorem test_alu_skip_elsewhere :
    let c := { defaultConfig with aluTable := defaultAluTable.set 0 .busPlusSkip }
    (alu c 0x8000 0 0 true).result = 0x8000 ∧ (alu c 0x8000 0 11 true).result = 0x8001 := by
  decide +kernel

/-- A table outside R84 (log entry 22): NOT BUS, NOT (BUS XOR T), and BUS + (BUS AND NOT T) by the sum of R123. -/
theorem test_alu_other_functions :
    logicResult (.otherLogic ⟨false, false, true, true⟩) 0x1234 0x00FF = 0xEDCB ∧
    logicResult (.otherLogic ⟨true, false, false, true⟩) 0x1234 0x00FF = 0xED34 ∧
    aluFunction defaultConfig (.otherSum ⟨false, true, false, false⟩ false) 0x1234 0x00FF true = (0x2434, false) := by
  decide +kernel

theorem test_alu_bus :
    aluRowSame 0 true #v[(0x1234, false), (0xFFFF, false), (0, false), (0x8000, false), (5, false)] = true := by
  decide +kernel
theorem test_alu_t :
    aluRowSame 1 false #v[(0x00FF, false), (1, false), (0, false), (0x8000, false), (7, false)] = true := by
  decide +kernel
theorem test_alu_or :
    aluRowSame 2 true #v[(0x12FF, false), (0xFFFF, false), (0, false), (0x8000, false), (7, false)] = true := by
  decide +kernel
theorem test_alu_and :
    aluRowSame 3 false #v[(0x0034, false), (1, false), (0, false), (0x8000, false), (5, false)] = true := by
  decide +kernel
theorem test_alu_xor :
    aluRowSame 4 false #v[(0x12CB, false), (0xFFFE, false), (0, false), (0, false), (2, false)] = true := by
  decide +kernel
theorem test_alu_plus1 :
    aluRowSame 5 true #v[(0x1235, false), (0, true), (1, false), (0x8001, false), (6, false)] = true := by
  decide +kernel
theorem test_alu_minus1 :
    aluRowSame 6 true #v[(0x1233, true), (0xFFFE, true), (0xFFFF, false), (0x7FFF, true), (4, true)] = true := by
  decide +kernel
theorem test_alu_plusT :
    aluRowSame 7 false #v[(0x1333, false), (0, true), (0, false), (0, true), (0x000C, false)] = true := by
  decide +kernel
theorem test_alu_minusT :
    aluRowSame 8 false #v[(0x1135, true), (0xFFFE, true), (0, true), (0, true), (0xFFFE, false)] = true := by
  decide +kernel
theorem test_alu_minusTminus1 :
    aluRowSame 9 false #v[(0x1134, true), (0xFFFD, true), (0xFFFF, false), (0xFFFF, false), (0xFFFD, false)] = true := by
  decide +kernel
theorem test_alu_plusTplus1 :
    aluRowSame 10 true #v[(0x1334, false), (1, true), (1, false), (1, true), (0x000D, false)] = true := by
  decide +kernel
theorem test_alu_plusSkip :
    aluRow 11 true
      [(0x1234, 0x00FF, (0x1234, false), (0x1235, false)), (0xFFFF, 1, (0xFFFF, false), (0, true)),
       (0, 0, (0, false), (1, false)), (0x8000, 0x8000, (0x8000, false), (0x8001, false)),
       (5, 7, (5, false), (6, false))] = true := by
  decide +kernel
theorem test_alu_dotT :
    aluRowSame 12 true #v[(0x0034, false), (1, false), (0, false), (0x8000, false), (5, false)] = true := by
  decide +kernel
theorem test_alu_andNotT :
    aluRowSame 13 false #v[(0x1200, false), (0xFFFE, false), (0, false), (0, false), (0, false)] = true := by
  decide +kernel
theorem test_alu_undefined :
    aluRowSame 14 false #v[(0, true), (0, true), (0, true), (0, true), (0, true)] = true ∧
    aluRowSame 15 false #v[(0, true), (0, true), (0, true), (0, true), (0, true)] = true := by
  decide +kernel

/-! ### One microcycle: the programs of section 11 and the vectors, a cycle at a time -/

/-- P1, cycle 1: a constant on the bus, T from the ALU. -/
theorem test_step_constant_to_t :
    leaves (stepWord (resetOf (withConstants [(10, 0x1234)])) 0x08270801)
      (fun t => t.bus == 0x1234 && t.t == 0x1234 && t.nextPc.toNat == 1 && t.now == 170) = true := by
  decide +kernel

/-- P1, cycle 2: the L commit in a RAM-related task also loads M (V6.2). -/
theorem test_step_l_and_m :
    leaves (stepWord { resetOf (withConstants [(18, 0x00FF)]) with t := 0x1234 } 0x13A70402)
      (fun t => t.l == 0x1333 && t.m == 0x1333 && t.laluc0 == false && t.t == 0x1234) = true := by
  decide +kernel

/-- P2, cycle 4: the same commit in task 5 leaves M. -/
theorem test_step_l_outside_ram_tasks :
    leaves (stepWord
        { resetOf { withConstants [] with
            fnBs := harnessBs 5, fnF1 := harnessF1 5, fnF2 := harnessF2 5 } with
          curTask := 5, nextTask := 5, nnTask := 5, t := 0x00FF, m := 0x1234, nextPc := MicroAddr.ofNat 6 }
        0x03A20407)
      (fun t => t.l == 0x00FE && t.laluc0 == true && t.m == 0x1234 && t.nextTask == 0 && t.curTask == 5) = true := by
  decide +kernel

/-- P1, cycle 3: the late F2 handler ORs 1 into the next address. -/
theorem test_step_branch_on_zero :
    leaves (stepWord { resetOf (withConstants [(26, 0x1234)]) with t := 0x1234 } 0x1C271004)
      (fun t => t.alu == 0 && t.aluc0 == true && (fetchAddress t).toNat == 5) = true := by
  decide +kernel

/-- P1, cycles 4 and 5: BS 1 writes R late, from the ALU; BS 0 reads R early. -/
theorem test_step_write_r :
    leaves (stepWord (resetOf defaultConfig) 0x23100806)
      (fun t => t.r[4] == 0xFFFE && t.t == 0xFFFE && t.bus == 0xFFFF) = true := by
  decide +kernel
theorem test_step_read_r :
    leaves (stepWord (writeR 4 0xFFFE (resetOf defaultConfig)) 0x20000006)
      (fun t => t.bus == 0xFFFE && t.alu == 0xFFFE && t.aluc0 == false) = true := by
  decide +kernel

/-- V4.1: the BS handler reads R with the register select the F2 handler has written. -/
theorem test_step_rsel_order :
    leaves (stepWord
        (writeR 5 0x00F0 (writeR 1 0x0F00 (resetOf { defaultConfig with
          fnF2 := [⟨.early, 0, 2, oneAction (.setRsel (.imm 5))⟩, ⟨.late, 0, 2, inertHandler⟩] })))
        0x08002801)
      (fun t => t.bus == 0x00F0 && t.t == 0x00F0 && t.rsel == 5) = true := by
  decide +kernel

/-- V4.2: BS 5 alone puts the constant at RSEL x 8 + BS on the bus. -/
theorem test_step_constant_by_bs :
    leaves (stepWord (resetOf (withConstants [(13, 0x00F0)])) 0x08500801) (fun t => t.bus == 0x00F0) = true := by
  decide +kernel

/-- V5.1 and V5.2: TASK samples the highest-numbered request. -/
theorem test_step_task :
    leaves (stepWord { resetOf defaultConfig with wakeup := 0x0021 } 0x00220001)
      (fun t => t.nnTask == 5 && t.nextTask == 5 && t.curTask == 0) = true ∧
    leaves (stepWord { resetOf defaultConfig with wakeup := 0x8001 } 0x00220001)
      (fun t => t.nextTask == 15) = true := by
  decide +kernel

/-- V5.6: TASK with no request is fatal, and names the F1 slot. -/
theorem test_step_task_without_request :
    leaves (stepWord { resetOf defaultConfig with wakeup := 0 } 0x00220001)
      (fun t => t.fatal == some ⟨.noTaskRequesting, 0, MicroAddr.ofNat 0, some .f1, some .early, some 2, 170, ""⟩ &&
        t.inSlice == false) = true := by
  decide +kernel

/-- P2, cycle 2: the switch commits, saves the old task's micro-PC and calls the new task's activate callback. -/
theorem test_step_switch :
    leaves (stepWord
        { resetOf { withConstants [(10, 0x1234)] with activate := [(5, oneAction (.unwake 5))] } with
          wakeup := 0x0021, nextTask := 5, nnTask := 5, nextPc := MicroAddr.ofNat 1 }
        0x08270402)
      (fun t => t.curTask == 5 && t.tmpc[0].toNat == 2 && t.nextPc.toNat == 5 && t.wakeup == 0x0001 &&
        t.m == 0x1234) = true := by
  decide +kernel

/-- P3, cycle 2: WRTRAM flags its request with this cycle's ALU as the address. -/
theorem test_step_flag_wrtram :
    leaves (stepWord (resetOf (withConstants [(18, 0x0010)])) 0x10297002)
      (fun t => t.wrtramPend && t.cramAddr == 0x0010 && !t.rdramPend) = true := by
  decide +kernel

/-- P3, cycle 3: the pending WRTRAM writes L over the ALU, inverted, to RAM page 0. -/
theorem test_step_wrtram :
    leaves (stepWord
        { resetOf (withConstants [(26, 0x1234)]) with l := 0xBEEF, wrtramPend := true, cramAddr := 0x0010 }
        0x18270003)
      (fun t => ucRead t 1040 == 0xBEE79E34 && !t.wrtramPend && t.log.isEmpty) = true := by
  decide +kernel

/-- P3, cycles 5 and 7: RDRAM's low and high half. -/
theorem test_step_rdram :
    leaves (stepWord
        { (ucWrite 1040 0xBEE79E34 (resetOf defaultConfig)) with rdramPend := true, cramAddr := 0x0010 }
        0x00200805)
      (fun t => t.t == 0x1234 && !t.rdramPend) = true ∧
    leaves (stepWord
        { (ucWrite 1040 0xBEE79E34 (resetOf defaultConfig)) with rdramPend := true, cramAddr := 0x0410, t := 0x1234 }
        0x02200406)
      (fun t => t.bus == 0xBEEF && t.l == 0xACDB) = true := by
  decide +kernel

/-- V7.2, cycle 2: an RDRAM out of range leaves the bus and logs. -/
theorem test_step_rdram_out_of_range :
    leaves (stepWord
        { resetOf (withConstants [(10, 0x0805)]) with rdramPend := true, cramAddr := 0x1010 } 0x082A7002)
      (fun t => t.bus == 0x0805 && t.cramAddr == 0x0805 && t.rdramPend &&
        t.log == [⟨.rdramOutOfRange 0x1010, 0, MicroAddr.ofNat 0, 170⟩]) = true := by
  decide +kernel

/-- V7.2, cycle 5: a WRTRAM to ROM writes nothing and logs. -/
theorem test_step_wrtram_ignored :
    leaves (stepWord { resetOf defaultConfig with wrtramPend := true, cramAddr := 0x0805 } 0x00200005)
      (fun t => ucRead t 5 == 0 && t.log == [⟨.wrtramIgnored 0x0805, 0, MicroAddr.ofNat 0, 170⟩]) = true := by
  decide +kernel

/-- V7.2, cycle 6: code 016 gives 0 with carry and logs. -/
theorem test_step_undefined_alu :
    leaves (stepWord (resetOf defaultConfig) 0x07200005)
      (fun t => t.alu == 0 && t.aluc0 && t.log == [⟨.undefinedAluFunction 14, 0, MicroAddr.ofNat 0, 170⟩]) = true := by
  decide +kernel

/-- V10.1 and V8.1: the fatal stub ends the microcycle before the ALU; the micro-PC has advanced; the slice ends. -/
theorem test_step_stub :
    leaves (stepWord
        { resetOf defaultConfig with curTask := 3, nextTask := 3, nnTask := 3, nextPc := MicroAddr.ofNat 3, alu := 0x5555 }
        0x00200004)
      (fun t => t.fatal == some ⟨.undefinedSlot, 3, MicroAddr.ofNat 3, some .f2, some .early, some 0, 170, ""⟩ &&
        t.alu == 0x5555 && t.nextPc.toNat == 4 && t.taskNs[3] == 170 && t.taskNs[0] == 0 && !t.inSlice &&
        t.reply == some (.consumed 170)) = true := by
  decide +kernel

/-- V6.1, cycle 1: a stalled microcycle takes its time and re-reads its word. -/
theorem test_step_stalled :
    leaves (stepWord
        { resetOf { defaultConfig with stall := .whenever (.nowBelow 500) } with nextPc := MicroAddr.ofNat 0x40 }
        0x02A00841)
      (fun t => t.now == 170 && t.nextPc.toNat == 0x40 && t.t == 0 && t.alu == 0 && t.mir == 0x02A00841) = true := by
  decide +kernel

/-- V3.2: a page edge; the branch bits stay in the page. -/
theorem test_step_page_edge :
    leaves (stepWord { resetOf defaultConfig with nextPc := MicroAddr.ofNat 0x7FD } 0x00A013FE)
      (fun t => t.nextPc.toNat == 0x7FE && t.next2 == 1 && (fetchAddress t).toNat == 0x7FF) = true := by
  decide +kernel

/-! ### The timer and the host -/

/-- An event of V9.1. -/
def event (id time : Nat) (name : String) : Event := ⟨id, time, 1, 0, name⟩

/-- V9.1, item 1: the queue after four inserts is in (time, id) order. -/
theorem test_insert_order :
    ((insertEvent 100 1 0 "d" (insertEvent 300 1 0 "c" (insertEvent 100 1 0 "b" (insertEvent 300 1 0 "a"
      State.reset)))).queue =
      [event 2 100 "b", event 4 100 "d", event 1 300 "a", event 3 300 "c"]) := by
  decide +kernel

/-- V9.2: the leave check. -/
theorem test_leave_check :
    (insertEvent 1000 1 0 "x" { State.reset with inSlice := true, now := 1000, sliceEnd := 2000 }).leave = true ∧
    (insertEvent 1001 1 0 "x" { State.reset with inSlice := true, now := 1000, sliceEnd := 2000 }).leave = false ∧
    (insertEvent 0 1 0 "x" { State.reset with now := 1000, sliceEnd := 2000 }).leave = false := by
  decide +kernel

/-- V9.1, item 4: remove. -/
theorem test_remove :
    (removeEvent 3 { State.reset with queue := [event 2 100 "b", event 3 300 "c"] }).queue = [event 2 100 "b"] ∧
    isQueued { State.reset with queue := [event 2 100 "b"] } 99 = false := by
  decide +kernel

/-- V9.1, item 5 and V9.3: the callback runs at its event's time, and NOW comes back. -/
theorem test_fire_due :
    (fireDue { resetOf { defaultConfig with callbacks := [(1, oneAction (.logAnomaly "cb"))] } with
        now := 170, queue := [event 2 100 "b"] }).log = [⟨.collaboratorAnomaly "cb", 0, MicroAddr.ofNat 0, 100⟩] ∧
    (fireDue { resetOf { defaultConfig with callbacks := [(1, inertHandler)] } with
        now := 170, queue := [event 2 100 "b"] }).now = 170 := by
  decide +kernel

/-- V9.1 and V9.3: the time until the next event, 0 for one already due. -/
theorem test_time_until_next :
    timeUntilNext { State.reset with now := 170, queue := [event 1 300 "a"] } = some 130 ∧
    timeUntilNext { State.reset with now := 2040, queue := [event 1 2000 "a"] } = some 0 ∧
    timeUntilNext State.reset = none := by
  decide +kernel

/-- P4, cycle 3: an insert with delay 0 cuts the slice short. -/
theorem test_step_insert_ends_slice :
    leaves (stepWord
        { resetOf { defaultConfig with
            fnF1 := [⟨.early, 0, 3, inertHandler⟩, ⟨.late, 0, 3, oneAction (.insert 0 1 7 "p4")⟩] } with
          now := 340, inSlice := true, sliceEnd := 1010, remain := 670, budget := 1010 }
        0x00230003)
      (fun t => t.leave && !t.inSlice && t.reply == some (.consumed 510) &&
        t.queue == [⟨1, 510, 1, 7, "p4"⟩]) = true := by
  decide +kernel

/-- V6.4: `execute(0)` runs no cycle and returns 0. -/
theorem test_execute_zero :
    leaves (execute 0 State.reset) (fun t => t.reply == some (.consumed 0) && t.now == 0) = true := by
  decide +kernel

/-- V6.5: in the fatal state `execute` returns 0. -/
theorem test_execute_fatal :
    leaves (execute 500 { State.reset with fatal := some ⟨.undefinedSlot, 3, MicroAddr.ofNat 3, none, none, none, 510, ""⟩ })
      (fun t => t.reply == some (.consumed 0) && t.now == 0) = true := by
  decide +kernel

/-! ### Witnesses: concrete states that meet the hypotheses of the statements -/

/-- The alu rows, with every operand 0. -/
def aluRows : List Instr :=
  [.aluBus 0 0 0 0 false false 0,
   .aluT 0 0 0 0 false false 0,
   .aluBusOrT 0 0 0 0 false false 0,
   .aluBusAndT 0 0 0 0 false false 0,
   .aluBusXorT 0 0 0 0 false false 0,
   .aluBusPlus1 0 0 0 0 false false 0,
   .aluBusMinus1 0 0 0 0 false false 0,
   .aluBusPlusT 0 0 0 0 false false 0,
   .aluBusMinusT 0 0 0 0 false false 0,
   .aluBusMinusTMinus1 0 0 0 0 false false 0,
   .aluBusPlusTPlus1 0 0 0 0 false false 0,
   .aluBusPlusSkip 0 0 0 0 false false 0,
   .aluBusDotT 0 0 0 0 false false 0,
   .aluBusAndNotT 0 0 0 0 false false 0,
   .aluUndef016 0 0 0 0 false false 0,
   .aluUndef017 0 0 0 0 false false 0]

/-- The bs rows, with every operand 0. -/
def bsRows : List Instr :=
  [.bs0 0 0 0 0 false false 0,
   .bs1 0 0 0 0 false false 0,
   .bs2 0 0 0 0 false false 0,
   .bs3 0 0 0 0 false false 0,
   .bs4 0 0 0 0 false false 0,
   .bs5 0 0 0 0 false false 0,
   .bs6 0 0 0 0 false false 0,
   .bs7 0 0 0 0 false false 0]

/-- The f1 rows, with every operand 0. -/
def f1Rows : List Instr :=
  [.f1Code0 0 0 0 0 false false 0,
   .f1Code1 0 0 0 0 false false 0,
   .f1Task 0 0 0 0 false false 0,
   .f1Code3 0 0 0 0 false false 0,
   .f1Code4 0 0 0 0 false false 0,
   .f1Code5 0 0 0 0 false false 0,
   .f1Code6 0 0 0 0 false false 0,
   .f1Const 0 0 0 0 false false 0,
   .f1Code10 0 0 0 0 false false 0,
   .f1Wrtram 0 0 0 0 false false 0,
   .f1Rdram 0 0 0 0 false false 0,
   .f1Code13 0 0 0 0 false false 0,
   .f1Code14 0 0 0 0 false false 0,
   .f1Code15 0 0 0 0 false false 0,
   .f1Code16 0 0 0 0 false false 0,
   .f1Code17 0 0 0 0 false false 0]

/-- The f2 rows, with every operand 0. -/
def f2Rows : List Instr :=
  [.f2Code0 0 0 0 0 false false 0,
   .f2Code1 0 0 0 0 false false 0,
   .f2Code2 0 0 0 0 false false 0,
   .f2Code3 0 0 0 0 false false 0,
   .f2Code4 0 0 0 0 false false 0,
   .f2Code5 0 0 0 0 false false 0,
   .f2Code6 0 0 0 0 false false 0,
   .f2Const 0 0 0 0 false false 0,
   .f2Code10 0 0 0 0 false false 0,
   .f2Code11 0 0 0 0 false false 0,
   .f2Code12 0 0 0 0 false false 0,
   .f2Code13 0 0 0 0 false false 0,
   .f2Code14 0 0 0 0 false false 0,
   .f2Code15 0 0 0 0 false false 0,
   .f2Code16 0 0 0 0 false false 0,
   .f2Code17 0 0 0 0 false false 0]

/-- LOAD_T and LOAD_L, with every operand 0. -/
def loadRows : List Instr :=
  [.loadT 0 0 0 0 0 false 0,
   .loadL 0 0 0 0 0 false 0]

/-- One instruction of every row. -/
def everyRow : List Instr := aluRows ++ bsRows ++ f1Rows ++ f2Rows ++ loadRows

/-- Every row is in the list, in the table's order. -/
theorem test_everyRow_length : everyRow.length = 58 ∧ everyRow.Nodup := by
  decide +kernel

/-- A configuration in which every slot of task 0 that the core does not own holds the inert handler. -/
def openConfig : Config :=
  { defaultConfig with
    fnBs := (List.range 8).flatMap fun n => [⟨.early, 0, n, inertHandler⟩, ⟨.late, 0, n, inertHandler⟩]
    fnF1 := [0, 1, 3, 4, 5, 6, 8, 11, 12, 13, 14, 15].flatMap fun n =>
      [⟨.early, 0, n, inertHandler⟩, ⟨.late, 0, n, inertHandler⟩]
    fnF2 := [0, 1, 2, 3, 4, 5, 6, 8, 9, 10, 11, 12, 13, 14, 15].flatMap fun n =>
      [⟨.early, 0, n, inertHandler⟩, ⟨.late, 0, n, inertHandler⟩] }

/-- The reset state of that configuration. -/
def openState : State := resetOf openConfig

theorem test_openConfig_accepted : openConfig.wellFormed = true := by
  decide +kernel

/-- `Undisturbed`, as a test that can be run. -/
def undisturbedTest (m : Micro) (s : State) : Bool :=
  s.fatal.isNone && !isStalled (loadMir m s) &&
  isInert (f2Slot s.cfg .early s.curTask m.f2) && isInert (f2Slot s.cfg .late s.curTask m.f2) &&
  isInert (bsSlot s.cfg .early s.curTask m.bs) && isInert (bsSlot s.cfg .late s.curTask m.bs) &&
  isCoreOrInert (f1Slot s.cfg .early s.curTask m.f1) && isCoreOrInert (f1Slot s.cfg .late s.curTask m.f1) &&
  (decide (m.f1 ≠ f1Task) || decide (s.wakeup ≠ 0#16)) &&
  (match activateOf s.cfg s.nextTask with
    | none => true
    | some h => decide (h = inertHandler))

theorem undisturbed_of_test {m : Micro} {s : State} (h : undisturbedTest m s = true) : Undisturbed m s := by
  simp only [undisturbedTest, Bool.and_eq_true, Bool.or_eq_true, Bool.not_eq_true', Option.isNone_iff_eq_none,
    decide_eq_true_eq] at h
  obtain ⟨⟨⟨⟨⟨⟨⟨⟨⟨h1, h2⟩, h3⟩, h4⟩, h5⟩, h6⟩, h7⟩, h8⟩, h9⟩, h10⟩ := h
  refine ⟨h1, h2, h3, h4, h5, h6, h7, h8, fun hm => h9.resolve_left fun h => h hm, fun g hg => ?_⟩
  rw [hg] at h10
  simpa using h10

/-- UndisturbedInstructionCompletes: its hypothesis holds for an instruction of every row. -/
theorem test_witness_undisturbed_every_row : ∀ i ∈ everyRow, Undisturbed (microOf i) openState := by
  have h : everyRow.all (fun i => undisturbedTest (microOf i) openState) = true := by decide +kernel
  exact fun i hi => undisturbed_of_test (List.all_eq_true.mp h i hi)

/-- The hypotheses of AnsweredInstructionCompletes on the slots, as a test that can be run. -/
def answeredTest (m : Micro) (s : State) : Bool :=
  s.fatal.isNone && !isStalled (loadMir m s) &&
  slotAnswers (f2Slot s.cfg .early s.curTask m.f2) && slotAnswers (f2Slot s.cfg .late s.curTask m.f2) &&
  slotAnswers (bsSlot s.cfg .early s.curTask m.bs) && slotAnswers (bsSlot s.cfg .late s.curTask m.bs) &&
  (slotAnswers (f1Slot s.cfg .early s.curTask m.f1) ||
    (decide (m.f1 = f1Task ∧ s.wakeup ≠ 0#16) && isInert (f2Slot s.cfg .early s.curTask m.f2) &&
      isInert (bsSlot s.cfg .early s.curTask m.bs))) &&
  (slotAnswers (f1Slot s.cfg .late s.curTask m.f1) || decide (m.f1 = f1Task)) &&
  (match activateOf s.cfg s.nextTask with
    | none => true
    | some h => neverFatal h)

/-- AnsweredInstructionCompletes: its hypotheses hold for an instruction of every row, and, with a BS handler that acts
and an activate callback that acts, at P2's switch. -/
theorem test_witness_answered :
    everyRow.all (fun i => answeredTest (microOf i) openState) = true ∧
    answeredTest (microOf (.aluBus 4 0 0 0 false false 6))
      { resetOf { defaultConfig with activate := [(5, oneAction (.unwake 5))] } with nextTask := 5 } = true := by
  decide +kernel

/-- DecodeEncodeWellFormed: well-formed instructions at the ends of the operands' ranges. -/
theorem test_witness_wellFormed :
    Instr.wellFormed (.aluBus 31 7 15 15 true true 1023) = true ∧ Instr.wellFormed (.loadT 0 0 0 0 0 true 0) = true ∧
    Instr.wellFormed (.f2Code17 31 7 7 7 false false 0) = true := by
  decide

/-- RowsOfOneWordMeanTheSame: two rows that match one word. -/
theorem test_witness_two_rows :
    encode (.aluBus 1 2 7 0 true false 1) = encode (.loadT 1 0 2 7 0 false 1) := by
  decide

/-- A state inside a slice, between two of its microcycles. -/
def sliceState : State := { resetOf defaultConfig with inSlice := true, remain := 1000, sliceEnd := 1000, budget := 1000 }

/-- A state between slices, after some time, with a queued event. -/
def idleState : State :=
  { resetOf defaultConfig with now := 340, taskNs := (Vector.replicate 16 0).set 0 340, nextId := 3, queue := [event 1 300 "a", event 2 500 "b"] }

/-- A configuration with no callback open, for events that fire. -/
def firingState : State :=
  { resetOf { defaultConfig with callbacks := [(1, oneAction (.logAnomaly "cb"))] } with
    now := 340, nextId := 3, queue := [event 1 300 "a", event 2 340 "b"] }

theorem timerOk_of_two {s : State} {e f : Event} (h : s.queue = [e, f]) (ho : eventBefore e f) (he : e.id < s.nextId)
    (hf : f.id < s.nextId) : TimerOk s := by
  constructor
  · rw [h]; simpa using ho
  · rw [h]; simpa using ⟨he, hf⟩

/-- TimerKeepsItsOrder, InsertPutsOneEventInItsPlace, FireDueTakesTheLeastEvent: ordered queues, one with an event due. -/
theorem test_witness_timerOk : TimerOk idleState ∧ TimerOk firingState ∧ firingState.fatal = none :=
  ⟨timerOk_of_two rfl (.inl (by decide)) (by decide) (by decide),
   timerOk_of_two rfl (.inl (by decide)) (by decide) (by decide), rfl⟩

/-- StepKeepsTheInvariant, StepNeverStopsFromTheInvariant: a state inside a slice has the invariant. -/
theorem test_witness_invariant_in_slice : MachineInv sliceState := by
  refine ⟨?_, ?_, ?_, ?_, ?_, ?_, ?_, ⟨List.Pairwise.nil, ?_⟩, ?_, ?_⟩ <;> decide +kernel

/-- ExecuteConsumesWholeCycles: a state between slices with the invariant and no fault. -/
theorem test_witness_invariant_between_slices :
    MachineInv idleState ∧ idleState.inSlice = false ∧ idleState.fatal = none := by
  refine ⟨⟨?_, ?_, ?_, ?_, ?_, ?_, ?_, test_witness_timerOk.1, ?_, ?_⟩, rfl, rfl⟩ <;> decide +kernel

/-- The statements about `step s = .next s'`: step answers from both states, and from reset. -/
theorem test_witness_step_answers :
    (∃ t, step sliceState = .next t) ∧ (∃ t, step { idleState with queue := [] } = .next t) ∧
    (∃ t, step State.reset = .next t) :=
  ⟨next_of_answers (by decide +kernel), next_of_answers (by decide +kernel), next_of_answers (by decide +kernel)⟩

/-- TaskTimesAddUpToNow: its premise after some time. -/
theorem test_witness_task_times : totalTaskNs idleState = idleState.now := by
  decide +kernel

/-- StepRunsTheDecodedInstruction: inside a slice, and at the first microcycle of the host loop's `execute`. -/
theorem test_witness_step_runs :
    (sliceState.cfg.wellFormed = true ∧ sliceState.inSlice = true ∧ sliceMayRun sliceState = true ∧
      (beforeFetch sliceState).fatal = none ∧
      inStore (beforeFetch sliceState).cfg (fetchAddress (beforeFetch sliceState)) = true) ∧
    (State.reset.cfg.wellFormed = true ∧ State.reset.inSlice = false ∧ State.reset.fatal = none ∧
      State.reset.hostCalls = [] ∧ dueEvent State.reset = none ∧
      sliceMayRun (beginSlice (loopBudget State.reset) State.reset) = true ∧
      (beforeFetch (beginSlice (loopBudget State.reset) State.reset)).fatal = none ∧
      inStore defaultConfig (fetchAddress (beforeFetch (beginSlice (loopBudget State.reset) State.reset))) = true) := by
  decide +kernel

/-- LaunchMeetsTheInvariant: an image with a word at the last address of `U`, and two initial events of which the second fires
first. -/
theorem test_witness_launch :
    ∃ s, launch defaultConfig [(0, 1), (2047, 0xFFFFFFFF)] [⟨500, 1, 0, "disk"⟩, ⟨300, 2, 7, "disp"⟩] = .next s :=
  next_of_answers (by decide +kernel)

/-- R264 item 6: initial events keep their NOW + delay fire-times, in the queue's order (R216). -/
theorem test_launch_events :
    leaves (launch defaultConfig [] [⟨500, 1, 0, "disk"⟩, ⟨300, 2, 7, "disp"⟩]) (fun s =>
      decide (s.queue = [⟨2, 300, 2, 7, "disp"⟩, ⟨1, 500, 1, 0, "disk"⟩] ∧ s.nextId = 3)) = true := by
  decide +kernel

/-- The launch of the default configuration with nothing placed is the reset state; calls the host decides on come after those
pending (R206). -/
theorem test_launch_reset :
    leaves (launch defaultConfig [] []) (fun s => decide (s = State.reset)) = true ∧
    (offerCalls [.fireDue] (offerCalls [.execute 170] State.reset)).hostCalls = [.execute 170, .fireDue] := by
  decide +kernel

/-- ContextDecidesExecution: two states of one context, with other pending calls. -/
theorem test_witness_context :
    contextOf State.reset = contextOf (offerCalls [.timeUntilNext] State.reset) ∧
    State.reset ≠ offerCalls [.timeUntilNext] State.reset ∧ State.reset.inSlice = false := by
  decide +kernel

/-- IllFormedConfigurationIsRefused: an image with a word at the first address outside `U`. -/
theorem test_witness_illformed_image :
    defaultConfig.wellFormed = true ∧ (2048, 1) ∈ ([(2048, 1)] : Memory 32) ∧
    (defaultConfig.romPages + defaultConfig.ramPages) * 1024 ≤ 2048 := by
  decide +kernel

/-- IllFormedConfigurationIsRefused: a configuration for each of its cases. -/
theorem test_witness_illformed :
    ({ defaultConfig with romPages := 0 }.romPages = 0) ∧ ({ defaultConfig with nsBank := 0 }.nsBank = 0) ∧
    ({ defaultConfig with cycleNs := 0 }.cycleNs = 0) ∧
    (defaultConfig.pages * 1024 ≤ (defaultResetMpc.set 15 2048)[15]) ∧
    ({ defaultConfig with f1Const := 2 }.f1Const = 2#4) ∧ ({ defaultConfig with f1Wrtram := 2 }.f1Wrtram = 2#4) ∧
    ({ defaultConfig with f1Rdram := 2 }.f1Rdram = 2#4) ∧
    ({ defaultConfig with f1Const := 9 }.f1Const = defaultConfig.f1Wrtram) ∧
    ({ defaultConfig with f1Const := 10 }.f1Const = defaultConfig.f1Rdram) ∧
    ({ defaultConfig with f1Wrtram := 10 }.f1Wrtram = defaultConfig.f1Rdram) ∧
    ((⟨.early, 3, 2, inertHandler⟩ : Registration) ∈
      ({ defaultConfig with fnF1 := [⟨.early, 3, 2, inertHandler⟩] } : Config).fnF1) ∧
    ((⟨.late, 0, 10, inertHandler⟩ : Registration) ∈
      ({ defaultConfig with fnF1 := [⟨.late, 0, 10, inertHandler⟩] } : Config).fnF1) ∧
    ((⟨.early, 3, 7, inertHandler⟩ : Registration) ∈
      ({ defaultConfig with fnF2 := [⟨.early, 3, 7, inertHandler⟩] } : Config).fnF2) ∧
    (0 ∈ defaultConfig.ramTasks ∧ defaultConfig.f1Rdram.toNat = 10 ∧ defaultConfig.f2Const.toNat = 7) := by
  decide +kernel

/-- OnlyWrtramWritesTheStore: the targets at the ends of RAM page 0, and no target in ROM or out of range. -/
theorem test_witness_wrtram_targets :
    wrtramTarget defaultConfig 0x0000 = some 1024 ∧ wrtramTarget defaultConfig 0x03FF = some 2047 ∧
    wrtramTarget defaultConfig 0x0BFF = none ∧ wrtramTarget defaultConfig 0x1000 = none ∧
    cramTarget defaultConfig 0x0BFF = some 1023 ∧ cramTarget defaultConfig 0x1800 = none := by
  decide +kernel

/-- OnlyWrtramWritesTheStore: an instruction with a pending WRTRAM, at the word before its target. -/
theorem test_witness_wrtram_elsewhere :
    (∃ t, exec (.aluBus 0 2 0 0 false false 0) { openState with wrtramPend := true } = .next t) ∧
    wrtramTarget openState.cfg openState.cramAddr ≠ some 1023 ∧ wrtramTarget openState.cfg openState.cramAddr = some 1024 :=
  ⟨next_of_answers (by decide +kernel), by decide +kernel, by decide +kernel⟩

/-- The statements about `exec i s = .next t`: an instruction of every row answers. -/
theorem test_witness_exec_answers : ∀ i ∈ everyRow, ∃ t, exec i openState = .next t := by
  have h : everyRow.all (fun i => answers (exec i openState)) = true := by decide +kernel
  exact fun i hi => next_of_answers (List.all_eq_true.mp h i hi)

/-- A fatal state. -/
def fatalState : State :=
  { State.reset with fatal := some ⟨.undefinedSlot, 3, MicroAddr.ofNat 3, some .f2, some .early, some 0, 510, ""⟩ }

/-- FatalStateIsPermanent, FatalStateRunsNothing. -/
theorem test_witness_fatal :
    fatalState.fatal ≠ none ∧ fatalState.inSlice = false ∧ fatalState.cfg.wellFormed = true ∧
    fatalState.hostCalls = [] ∧ answers (step fatalState) = true := by
  decide +kernel

/-- FatalCallDiscardsItsWrites: both kinds of fatal call, after a write that is discarded. -/
theorem test_witness_fatal_calls :
    (callHandler (.script [⟨.always, .act (.setT .bus)⟩, ⟨.always, .fail "no"⟩]) none State.reset).fatal ≠ none ∧
    (callHandler (.script [⟨.always, .act (.setT .bus)⟩, ⟨.always, .callExecute⟩]) none State.reset).fatal ≠ none ∧
    (callHandler (.script [⟨.always, .act (.setT .bus)⟩, ⟨.always, .callExecute⟩]) none State.reset).t = 0 := by
  decide +kernel

/-- StalledMicrocycleOnlyTakesTime and the stalled case of AdvanceFollowsTheNextField. -/
theorem test_witness_stalled :
    let s := resetOf { defaultConfig with stall := .whenever (.nowBelow 500) }
    s.cfg.tick = none ∧ s.fatal = none ∧ inStore s.cfg (fetchAddress s) = true ∧
    isStalled (loadMir (decodeMicro (ucRead s (fetchAddress s).toNat)) (fetch (account s))) = true ∧
    isStalled (loadMir (microOf (.aluBus 0 0 0 0 false false 0)) s) = true := by
  decide +kernel

/-- UndefinedSlotIsFatal: each clause's slot. -/
theorem test_witness_stubs :
    findRegistration defaultConfig.fnBs .early 3 0 = none ∧
    (coreF1 defaultConfig .early 3 0 = none ∧ findRegistration defaultConfig.fnF1 .early 3 0 = none) ∧
    (coreF2 defaultConfig 5 = none ∧ findRegistration defaultConfig.fnF2 .early 0 5 = none) ∧
    f2Slot defaultConfig .early 0 5 = .stub ∧
    isStalled (loadMir (microOf (.f2Code5 0 0 0 0 false false 0)) State.reset) = false := by
  decide +kernel

/-- BsReadsWithTheRselOfF2: the configuration of V4.1. -/
theorem test_witness_rsel_order :
    let s := resetOf { defaultConfig with
      fnF2 := [⟨.early, 0, 2, oneAction (.setRsel (.imm 5))⟩, ⟨.late, 0, 2, inertHandler⟩] }
    f2Slot s.cfg .early s.curTask 2 = .registered (oneAction (.setRsel (.imm 5))) ∧
    bsSlot s.cfg .early s.curTask 0 = .registered (oneAction (.driveBus .r)) ∧
    isInert (f1Slot s.cfg .early s.curTask 0) = true ∧ isInert (bsSlot s.cfg .late s.curTask 0) = true ∧
    isInert (f1Slot s.cfg .late s.curTask 0) = true ∧ isInert (f2Slot s.cfg .late s.curTask 2) = true ∧
    activateOf s.cfg s.nextTask = none ∧
    isStalled (loadMir (microOf (.f2Code2 1 0 0 0 true false 1)) s) = false := by
  decide +kernel

/-- TaskSamplesTheHighestRequester and SwitchCommitsOrDefers: both cases of each. -/
theorem test_witness_task_and_switch :
    State.reset.wakeup ≠ 0 ∧ { State.reset with wakeup := 0 }.wakeup = 0 ∧ State.reset.curTask = State.reset.nextTask ∧
    { State.reset with nextTask := 5 }.curTask ≠ { State.reset with nextTask := 5 }.nextTask ∧
    State.reset.fatal = none := by
  decide +kernel

/-- OnlyTheSwitchChangesTheTask, AdvanceFollowsTheNextField and SwitchedTaskResumesWhereItStopped: an instruction after
which another task runs. -/
theorem test_witness_switching :
    leaves (exec (.aluBus 1 2 7 0 false true 2) { openState with nextTask := 5 })
      (fun t => decide (t.curTask ≠ openState.curTask)) = true ∧
    isStalled (loadMir (microOf (.aluBus 1 2 7 0 false true 2)) { openState with nextTask := 5 }) = false ∧
    (switchTo 5 openState).curTask ≠ openState.curTask := by
  decide +kernel

/-- TaskSwitchComesOneInstructionLater: P2's TASK and its delay slot. -/
theorem test_witness_switch_timeline :
    let s := { openState with wakeup := 0x0021#16 }
    s.nextTask = s.curTask ∧ s.nnTask = s.curTask ∧ highestRequester s.wakeup = some 5 ∧
    Undisturbed (microOf (.f1Task 0 0 2 0 false false 1)) s ∧
    Undisturbed (microOf (.aluBus 1 2 7 0 false true 2))
      (fetch (undisturbedResult (microOf (.f1Task 0 0 2 0 false false 1)) s)) :=
  ⟨rfl, rfl, by decide +kernel, undisturbed_of_test (by decide +kernel), undisturbed_of_test (by decide +kernel)⟩

/-- AluLogicCodes, AluArithmeticCodes, CarryInMattersOnlyForSkip, AluIsTwosComplement, UndefinedAluCodesAreLogged. -/
theorem test_witness_alu :
    defaultConfig.aluTable = defaultAluTable ∧ defaultConfig.tsel = defaultTsel ∧
    defaultConfig.undefAlu = .busAndZero true ∧ State.reset.bus = 0xFFFF#16 ∧ (12 : BitVec 4) ≠ 11 := by
  decide +kernel

/-- ConstantPathNarrowsTheBus: BS at its boundary, each constant code, and neither. -/
theorem test_witness_constant_path :
    usesConstant defaultConfig ⟨0, 0, 4, 0, 0, false, false, 0⟩ = true ∧
    usesConstant defaultConfig ⟨0, 0, 3, 7, 0, false, false, 0⟩ = true ∧
    usesConstant defaultConfig ⟨0, 0, 3, 0, 7, false, false, 0⟩ = true ∧
    usesConstant defaultConfig ⟨0, 0, 3, 0, 0, false, false, 0⟩ = false := by
  decide +kernel

/-- RdramNarrowsTheBusOrLogs, WrtramWritesOrLogs and WrtramThenRdramReadsBack: a WRTRAM to the last RAM word and an RDRAM
of it, high half. -/
theorem test_witness_control_ram :
    let s := { State.reset with wrtramPend := true, cramAddr := 0x03FF#16, l := 0xBEEF#16, alu := 0x1234#16 }
    let u := { wrtramEffect s with rdramPend := true, cramAddr := 0x07FF#16 }
    wrtramTarget s.cfg s.cramAddr = some 2047 ∧ u.store = (wrtramEffect s).store ∧ u.rdramPend = true ∧
    cramTarget u.cfg u.cramAddr = some 2047 ∧ u.store ≠ [] ∧
    wrtramTarget defaultConfig 0x0800 = none ∧ cramTarget defaultConfig 0x1000 = none ∧
    s.cfg.cramLayout = defaultCramLayout := by
  decide +kernel

/-- ControlRamCodesFlagTheirRequests: a task in RAM_TASKS and one outside, and both instructions undisturbed, the RDRAM
with a request already pending. -/
theorem test_witness_control_ram_codes :
    f1CodesOk defaultConfig = true ∧ (0 : Task) ∈ defaultConfig.ramTasks ∧ (5 : Task) ∉ defaultConfig.ramTasks ∧
    undisturbedTest (microOf (.f1Rdram 0 0 2 7 false false 1)) { openState with rdramPend := true } = true ∧
    undisturbedTest (microOf (.f1Wrtram 2 0 2 7 false false 2)) openState = true := by
  decide +kernel

/-- FetchJoinsBaseAndModifier and the statements about `microcycle s = .next t`: at the end of a page, with a modifier. -/
theorem test_witness_microcycle :
    let s := { openState with nextPc := MicroAddr.ofNat 0x7FE, next2 := 1#10 }
    s.cfg.tick = none ∧ s.fatal = none ∧ inStore s.cfg (fetchAddress s) = true ∧ (fetchAddress s).toNat = 0x7FF ∧
    leaves (microcycle s) (fun t => decide (t.curTask = s.curTask)) = true := by
  decide +kernel

/-- ShortExecuteRunsOneMicrocycle: at both ends of the budget. -/
theorem test_witness_single_step :
    State.reset.fatal = none ∧ (170 : Nat) ≤ State.reset.cfg.cycleNs ∧
    answers (microcycle (beginSlice 1 State.reset)) = true ∧ answers (microcycle (beginSlice 170 State.reset)) = true := by
  decide +kernel

/-- StepsOfASliceAreExecute and DueEventsFireBeforeASlice. -/
theorem test_witness_host :
    ({ idleState with hostCalls := [.execute 340, .fireDue] }.hostCalls = .execute 340 :: [.fireDue]) ∧
    idleState.cfg.wellFormed = true ∧ firingState.cfg.wellFormed = true ∧ firingState.inSlice = false ∧
    firingState.hostCalls = [] ∧ dueEvent firingState = some (event 1 300 "a") := by
  decide +kernel

/-- InsertInsideASliceSetsLeave and RemoveTakesTheEventOut: an insert inside a slice, an id queued and one not. -/
theorem test_witness_insert_remove :
    sliceState.inSlice = true ∧ sliceState.now + 1000 ≤ sliceState.sliceEnd ∧ isQueued idleState 2 = true ∧
    isQueued idleState 3 = false := by
  decide +kernel

/-- FireDueTakesTheLeastEvent and CallbackSeesItsOwnTime: an event due, none due, and a described callback. -/
theorem test_witness_firing :
    dueEvent firingState = some (event 1 300 "a") ∧
    dueEvent { firingState with now := 299 } = none ∧
    callbackOf firingState.cfg (event 1 300 "a").callback = oneAction (.logAnomaly "cb") ∧ firingState.inSlice = false ∧
    (∀ f ∈ firingState.queue.tail, f.id ≠ 1) := by
  decide +kernel

/-- The state of `firingState` with another callback. -/
def firingWith (a : Action) : State :=
  { firingState with cfg := { defaultConfig with callbacks := [(1, oneAction a)] } }

/-- CallbackSeesItsOwnTime: callbacks that insert and that remove their own id. -/
theorem test_witness_firing_callbacks :
    callbackOf (firingWith (.insert 10 2 0 "x")).cfg 1 = oneAction (.insert 10 2 0 "x") ∧
    callbackOf (firingWith (.remove 1)).cfg 1 = oneAction (.remove 1) ∧
    dueEvent (firingWith (.remove 1)) = some (event 1 300 "a") ∧ (firingWith (.remove 1)).inSlice = false := by
  decide +kernel

/-- R220: a callback's `insert(10, ...)` is due at its event's time plus 10, and its own event is gone. -/
theorem test_callback_inserts :
    ((fireDue (firingWith (.insert 10 2 0 "x"))).queue.map fun e => (e.id, e.time)) = [(3, 310), (2, 340)] := by
  decide +kernel

/-- TimeUntilNextLooksAtTheHead and RegisterFilesReadBack. -/
theorem test_witness_head_and_banks :
    State.reset.queue = [] ∧ idleState.queue = event 1 300 "a" :: [event 2 500 "b"] ∧ 0 < State.reset.sBanks.length := by
  decide +kernel

/-- LogNeverChangesAnInstruction: the default configuration's collaborators are described. -/
theorem test_witness_described : describedConfig defaultConfig = true := by
  decide +kernel

/-- FatalStateRunsNothing, CommitLoadsLAndT: a state that runs. -/
theorem test_witness_running : openState.fatal = none := rfl

end Sys2Proof.Tests
end

section
/-! The family of spec/20_memory.md. What writes the microcode store (R63, R109): the one relation between a state and its
successor, the operations that keep it, and the inversion of a step into the operations of the host and the slice. -/

namespace Sys2Proof.Machine

/-! ### The relation of a state and its successor -/

/-- The store of `t` is the store of `s`, but for the word that a WRTRAM pending in `s` names (R63, R109). -/
def WrtramOnly (s t : State) : Prop :=
  t.store = s.store ∨
    ∃ a v, s.wrtramPend = true ∧ wrtramTarget s.cfg s.cramAddr = some a ∧ t.store = Memory.write s.store a v

/-- The target of WRTRAM lies in a RAM page (R109). -/
theorem wrtramTarget_in_ram {c : Config} {addr : Word} {a : Nat} (h : wrtramTarget c addr = some a) :
    c.romPages * pageWords ≤ a ∧ a < storeWords c :=
  have ⟨target, above⟩ := wrtramTarget_spec h
  ⟨above, cramTarget_lt target⟩

theorem ucRead_ucWrite (s : State) (a b : Nat) (v : MicroWord) :
    ucRead (ucWrite a v s) b = if b = a then v else ucRead s b :=
  Memory.read_write s.store a b v

/-- A word that no pending WRTRAM names is as before. -/
theorem WrtramOnly.ucRead_eq {s t : State} (h : WrtramOnly s t) {a : Nat}
    (ha : s.wrtramPend = true → wrtramTarget s.cfg s.cramAddr ≠ some a) : ucRead t a = ucRead s a := by
  unfold ucRead
  rcases h with same | ⟨b, v, pending, target, written⟩
  · rw [same]
  · have hab : a ≠ b := fun e => ha pending (e ▸ target)
    rw [written, Memory.read_write_other _ _ hab]

/-- A ROM word is as before: no target of WRTRAM is one. -/
theorem WrtramOnly.ucRead_rom {s t : State} (h : WrtramOnly s t) {a : Nat} (ha : a < s.cfg.romPages * pageWords) :
    ucRead t a = ucRead s a :=
  h.ucRead_eq fun _ target => absurd (wrtramTarget_in_ram target).1 (Nat.not_le.mpr ha)

/-- What comes before may change anything but the store, the WRTRAM request and the configuration. -/
theorem WrtramOnly.after {s u t : State} (h : WrtramOnly u t) (store : u.store = s.store)
    (pend : u.wrtramPend = s.wrtramPend) (addr : u.cramAddr = s.cramAddr) (cfg : u.cfg = s.cfg) : WrtramOnly s t := by
  simpa only [WrtramOnly, store, pend, addr, cfg] using h

/-- What comes after may change anything but the store. -/
theorem WrtramOnly.before {s t u : State} (h : WrtramOnly s t) (store : u.store = t.store) : WrtramOnly s u := by
  simpa only [WrtramOnly, store] using h

/-! ### The instruction and the slice -/

theorem exec_wrtramOnly {i : Instr} {s t : State} (h : exec i s = .next t) : WrtramOnly s t := by
  rw [exec_eq] at h
  obtain rfl := Host.Outcome.next.inj h
  exact runMicro_store (microOf i) s

@[simp] theorem afterCycle_store (t : State) : (afterCycle t).store = t.store := by
  rcases afterCycle_cases t with ⟨-, goesOn⟩ | ⟨-, ends⟩
  · rw [goesOn]
  · rw [ends, endSlice_store]

/-- The accounting and the tick hook leave the store and a pending WRTRAM to the instruction. -/
theorem microcycle_wrtramOnly {s t : State} (h : microcycle s = .next t) : WrtramOnly s t := by
  have kept := beforeFetch_kept s
  rcases microcycle_cases s with ⟨-, e⟩ | ⟨-, -, e⟩ | ⟨-, -, e⟩ <;> rw [e] at h
  · obtain rfl := Host.Outcome.next.inj h
    exact .inl kept.store
  · cases h
  · obtain rfl := Host.Outcome.next.inj h
    exact WrtramOnly.after (runMicro_store _ (fetch (beforeFetch s))) kept.store kept.wrtramPend kept.cramAddr kept.cfg

/-- A turn of the slice that answers either finds the loop over, or runs one microcycle. -/
theorem sliceStep_cases {s t : State} (h : sliceStep s = .next t) :
    (sliceMayRun s = false ∧ t = endSlice s) ∨
    (sliceMayRun s = true ∧ ∃ u, microcycle s = .next u ∧ t = afterCycle u) := by
  cases hm : sliceMayRun s with
  | false =>
    rw [sliceStep_over hm] at h
    exact .inl ⟨rfl, (Host.Outcome.next.inj h).symm⟩
  | true =>
    cases hc : microcycle s with
    | next u =>
      rw [sliceStep_next hm hc] at h
      exact .inr ⟨rfl, u, rfl, (Host.Outcome.next.inj h).symm⟩
    | fault f => simp [sliceStep, hm, hc] at h
    | refused r => simp [sliceStep, hm, hc] at h

theorem sliceStep_wrtramOnly {s t : State} (h : sliceStep s = .next t) : WrtramOnly s t := by
  rcases sliceStep_cases h with ⟨-, rfl⟩ | ⟨-, u, hu, rfl⟩
  · exact .inl rfl
  · exact (microcycle_wrtramOnly hu).before (afterCycle_store u)

/-- The call of `execute` that answers returns at once in the fatal state, and otherwise takes a turn of its slice. -/
theorem startExecute_cases {b : Nat} {s t : State} (h : startExecute b s = .next t) :
    (s.fatal ≠ none ∧ t = { s with reply := some (.consumed 0) }) ∨
    (s.fatal = none ∧ sliceStep (beginSlice b s) = .next t) := by
  unfold startExecute at h
  split_ifs at h with hf
  · exact .inl ⟨Option.isSome_iff_ne_none.mp hf, (Host.Outcome.next.inj h).symm⟩
  · exact .inr ⟨by simpa using hf, h⟩

theorem startExecute_wrtramOnly {b : Nat} {s t : State} (h : startExecute b s = .next t) : WrtramOnly s t := by
  rcases startExecute_cases h with ⟨-, rfl⟩ | ⟨-, h⟩
  · exact .inl rfl
  · exact (sliceStep_wrtramOnly h).after rfl rfl rfl rfl

/-! ### The host and the step -/

/-- A timer callback keeps the handler contract, and so the store. -/
@[simp] theorem fireDue_store (s : State) : (fireDue s).store = s.store := by
  unfold fireDue
  split
  · exact (callHandler_spec _ _ _).1.store
  · rfl

theorem hostCall_wrtramOnly {call : HostCall} {s t : State} (h : hostCall call s = .next t) : WrtramOnly s t := by
  cases call with
  | execute b => exact startExecute_wrtramOnly h
  | insert d c a n =>
    obtain rfl := Host.Outcome.next.inj h
    exact .inl rfl
  | remove id =>
    obtain rfl := Host.Outcome.next.inj h
    exact .inl rfl
  | fireDue =>
    obtain rfl := Host.Outcome.next.inj h
    exact .inl (fireDue_store s)
  | timeUntilNext =>
    obtain rfl := Host.Outcome.next.inj h
    exact .inl rfl

theorem hostLoop_wrtramOnly {s t : State} (h : hostLoop s = .next t) : WrtramOnly s t := by
  unfold hostLoop at h
  split at h
  · obtain rfl := Host.Outcome.next.inj h
    exact .inl (fireDue_store s)
  · exact startExecute_wrtramOnly h

/-- A step that answers has a well-formed configuration, and is a turn of the running slice, the host's next call, or a turn
of the host loop. -/
theorem step_cases {s s' : State} (h : step s = .next s') :
    s.cfg.wellFormed = true ∧
    ((s.inSlice = true ∧ sliceStep s = .next s') ∨
     (s.inSlice = false ∧ ∃ call rest, s.hostCalls = call :: rest ∧
       hostCall call { s with hostCalls := rest } = .next s') ∨
     (s.inSlice = false ∧ s.hostCalls = [] ∧ hostLoop s = .next s')) := by
  unfold step stepBody at h
  split_ifs at h with hw hs
  · exact ⟨hw, .inl ⟨hs, h⟩⟩
  · have hs : s.inSlice = false := by simpa using hs
    split at h
    · rename_i call rest hc
      exact ⟨hw, .inr (.inl ⟨hs, call, rest, hc, h⟩)⟩
    · rename_i hc
      exact ⟨hw, .inr (.inr ⟨hs, hc, h⟩)⟩

theorem step_wrtramOnly {s s' : State} (h : step s = .next s') : WrtramOnly s s' := by
  obtain ⟨-, ⟨-, h⟩ | ⟨-, call, rest, -, h⟩ | ⟨-, -, h⟩⟩ := step_cases h
  · exact sliceStep_wrtramOnly h
  · exact (hostCall_wrtramOnly h).after rfl rfl rfl rfl
  · exact hostLoop_wrtramOnly h

/-- Settles O13: instruction and step satisfy `WrtramOnly`, and a target of WRTRAM is no ROM word. -/
theorem onlyWrtramWritesTheStore : Obligations.OnlyWrtramWritesTheStore :=
  ⟨ucRead_ucWrite,
   fun _ _ _ _ h ha => (exec_wrtramOnly h).ucRead_eq ha,
   fun _ _ _ h => wrtramTarget_in_ram h,
   fun _ _ _ h ha => (step_wrtramOnly h).ucRead_eq ha,
   fun _ _ _ h ha => (step_wrtramOnly h).ucRead_rom ha⟩

end Sys2Proof.Machine
end

section
/-! The family of spec/40_microcode_store.md. How a fetch forms its address (R101), how the advance forms the next one (R102),
and how RDRAM and WRTRAM flag their request (R107, R108). -/

namespace Sys2Proof.Machine

/-! ### Micro-addresses -/

/-- The page of a micro-address's number (R103). -/
@[simp] theorem MicroAddr.toNat_div (a : MicroAddr) : a.toNat / 1024 = a.page := by
  have := a.offset.isLt
  simp only [MicroAddr.toNat, pageWords]
  omega

/-- The offset of a micro-address's number (R100). -/
@[simp] theorem MicroAddr.toNat_mod (a : MicroAddr) : a.toNat % 1024 = a.offset.toNat := by
  have := a.offset.isLt
  simp only [MicroAddr.toNat, pageWords]
  omega

/-- A micro-address whose page exists lies below the end of the store. -/
theorem MicroAddr.toNat_lt {a : MicroAddr} {pages : Nat} (h : a.page < pages) : a.toNat < pages * 1024 := by
  have := a.offset.isLt
  simp only [MicroAddr.toNat, pageWords]
  omega

/-! ### Fetch and decode -/

/-- Decode puts the word itself in MIR, and its top five bits in RSEL. -/
theorem loadMir_decodeMicro (w : MicroWord) (s : State) :
    loadMir (decodeMicro w) s = { s with mir := w, rsel := w.extractLsb' 27 5 } := by
  simp only [loadMir, microWord_decodeMicro]
  rfl

/-- With no tick hook the accounting alone stands before the fetch. -/
theorem beforeFetch_of_no_tick {s : State} (h : s.cfg.tick = none) : beforeFetch s = account s :=
  tick_none (s := account s) h

theorem callActivate_kept (s : State) : ContractKept s (callActivate s) := by
  unfold callActivate
  split
  · exact (callHandler_spec _ _ _).1
  · exact .refl s

@[simp] theorem resolveSwitch_mir (s : State) : (resolveSwitch s).mir = s.mir := by
  rcases resolveSwitch_cases s with ⟨-, e⟩ | ⟨-, -, e⟩ | ⟨-, -, e⟩ <;> rw [e]
  exact (callActivate_kept _).mir

/-- An instruction leaves its own word in MIR, stalled or not. -/
theorem runMicro_mir (m : Micro) {s : State} (running : s.fatal = none) : (runMicro m s).mir = microWord m := by
  rcases runMicro_cases m s with ⟨halted, -⟩ | ⟨-, -, e⟩ | ⟨-, -, e⟩
  · exact absurd running halted
  · rw [e, loadMir_mir]
  · rw [e, executeSteps_eq, resolveSwitch_mir, (beforeSwitch_threads m _).mir, advance_mir, loadMir_mir]

/-- A running microcycle with no tick hook leaves the fetched address in MPC and the fetched word in MIR. -/
theorem microcycle_fetches {s : State} (noTick : s.cfg.tick = none) (running : s.fatal = none)
    (inside : inStore s.cfg (fetchAddress s) = true) :
    ∃ t, microcycle s = .next t ∧ t.mpc = fetchAddress s ∧ t.mir = ucRead s (fetchAddress s).toNat := by
  have cycle := microcycle_cases s
  rw [beforeFetch_of_no_tick noTick] at cycle
  rcases cycle with ⟨halted, -⟩ | ⟨-, outside, -⟩ | ⟨-, -, runs⟩
  · exact absurd running halted
  · exact absurd inside (Bool.eq_false_iff.mp outside)
  · refine ⟨_, runs, (runMicro_quiet _ _).mpc, ?_⟩
    rw [runMicro_mir _ (show (fetch (account s)).fatal = none from running), microWord_decodeMicro]
    rfl

/-- Settles O40: the parts of the address, the laws of decode, the invariant's page, and `microcycle_fetches`. -/
theorem fetchJoinsBaseAndModifier : Obligations.FetchJoinsBaseAndModifier := by
  refine ⟨fun s => ?_, fun s w hw => ?_, fun s inv => ?_, fun s => microcycle_fetches⟩
  · simp [fetchAddress]
  · rw [loadMir_decodeMicro]
    exact ⟨rfl, rfl⟩
  · have page : (fetchAddress s).page < s.cfg.pages := inv.nextPage
    exact ⟨decide_eq_true page, MicroAddr.toNat_lt page⟩

/-! ### The advance -/

/-- An instruction that runs and is not stalled is its steps 5 to 9 after one advance. -/
theorem runMicro_of_not_stalled {m : Micro} {s : State} (running : s.fatal = none)
    (goes : isStalled (loadMir m s) = false) :
    runMicro m s = executeSteps m (advance m.next (loadMir m s)) := by
  rcases runMicro_cases m s with ⟨halted, -⟩ | ⟨-, stalled, -⟩ | ⟨-, -, e⟩
  · exact absurd running halted
  · exact absurd stalled (Bool.eq_false_iff.mp goes)
  · exact e

/-- An instruction that runs and is stalled is its decode alone. -/
theorem runMicro_of_stalled {m : Micro} {s : State} (running : s.fatal = none)
    (stalled : isStalled (loadMir m s) = true) : runMicro m s = loadMir m s := by
  rcases runMicro_cases m s with ⟨halted, -⟩ | ⟨-, -, e⟩ | ⟨-, goes, -⟩
  · exact absurd running halted
  · exact e
  · exact absurd stalled (Bool.eq_false_iff.mp goes)

/-- Step 9 leaves the running task its micro-PC; a switch puts it in that task's save area (R175). -/
theorem resolveSwitch_position (s : State) :
    ((resolveSwitch s).curTask = s.curTask ∧ (resolveSwitch s).nextPc = s.nextPc) ∨
    ((resolveSwitch s).curTask ≠ s.curTask ∧ (resolveSwitch s).tmpc[s.curTask.val] = s.nextPc) := by
  rcases resolveSwitch_cases s with ⟨-, e⟩ | ⟨-, -, e⟩ | ⟨-, other, e⟩ <;> rw [e]
  · exact .inl ⟨rfl, rfl⟩
  · exact .inl ⟨rfl, rfl⟩
  · have kept := callActivate_kept (switchTo s.nextTask s)
    rw [kept.curTask, kept.tmpc]
    exact .inr ⟨Ne.symm other, by simp [switchTo]⟩

/-- After the advance steps 5 to 8 keep the micro-PC, whatever the collaborators do, so the instruction's task stands at its
NEXT field in its page: in NEXTPC while it runs, in its save area once another task does. -/
theorem runMicro_position {m : Micro} {s : State} (running : s.fatal = none) (goes : isStalled (loadMir m s) = false) :
    ((runMicro m s).curTask = s.curTask ∧ (runMicro m s).nextPc = ⟨s.mpc.page, m.next⟩) ∨
    ((runMicro m s).curTask ≠ s.curTask ∧ (runMicro m s).tmpc[s.curTask.val] = ⟨s.mpc.page, m.next⟩) := by
  have threads := beforeSwitch_threads m (advance m.next (loadMir m s))
  have position := resolveSwitch_position (beforeSwitch m (advance m.next (loadMir m s)))
  simp only [threads.curTask, threads.nextPc] at position
  rw [runMicro_of_not_stalled running goes]
  exact position

/-- Settles O41: a stalled instruction is its decode alone; where another leaves its task is `runMicro_position`. -/
theorem advanceFollowsTheNextField : Obligations.AdvanceFollowsTheNextField := by
  refine ⟨fun n s => ⟨rfl, ?_⟩, fun i s running goes => ?_, fun i s t running h => ?_⟩
  · rw [MicroAddr.toNat_div]
    rfl
  · rw [exec_eq, runMicro_of_not_stalled running goes]
  · rw [exec_eq] at h
    obtain rfl := Host.Outcome.next.inj h
    refine ⟨fun stalled => ?_, fun goes same => ?_, fun goes other => ?_⟩
    · rw [runMicro_of_stalled running stalled]
      exact ⟨rfl, rfl⟩
    · exact (runMicro_position running goes).elim And.right fun moved => absurd same moved.1
    · exact (runMicro_position running goes).elim (fun stays => absurd stays.1 other) And.right

/-! ### The slots of the control RAM codes -/

theorem isRamTask_iff {c : Config} {k : Task} : isRamTask c k = true ↔ k ∈ c.ramTasks := List.contains_iff_mem

/-- RDRAM's slots: the core's in a task of RAM_TASKS, the task's own elsewhere (R107, R155). -/
theorem f1Slot_rdram {c : Config} (distinct : f1CodesOk c = true) (phase : Phase) (k : Task) :
    f1Slot c phase k c.f1Rdram =
      if k ∈ c.ramTasks then (if phase = .late then .flagRdram else .noEffect)
      else collaboratorSlot c.fnF1 phase k c.f1Rdram.toNat := by
  obtain ⟨-, -, notTask, -, notConst, notWrtram⟩ := of_decide_eq_true distinct
  unfold f1Slot coreF1
  rw [if_neg (Ne.symm notTask), if_neg (Ne.symm notConst)]
  by_cases ram : k ∈ c.ramTasks
  · cases phase <;> simp [isRamTask_iff, ram]
  · simp [isRamTask_iff, ram]

/-- WRTRAM's slots: the core's in a task of RAM_TASKS, the task's own elsewhere (R108, R155). -/
theorem f1Slot_wrtram {c : Config} (distinct : f1CodesOk c = true) (phase : Phase) (k : Task) :
    f1Slot c phase k c.f1Wrtram =
      if k ∈ c.ramTasks then (if phase = .late then .flagWrtram else .noEffect)
      else collaboratorSlot c.fnF1 phase k c.f1Wrtram.toNat := by
  obtain ⟨-, notTask, -, notConst, -, notRdram⟩ := of_decide_eq_true distinct
  unfold f1Slot coreF1
  rw [if_neg (Ne.symm notTask), if_neg (Ne.symm notConst), if_neg (fun h => notRdram h.1)]
  by_cases ram : k ∈ c.ramTasks
  · cases phase <;> simp [isRamTask_iff, ram]
  · simp [isRamTask_iff, ram]

/-! ### Slots where no collaborator acts -/

theorem runSlot_of_inert {fn : SlotFn} (inert : isInert fn = true) (field : Field) (phase : Phase) (code : Nat)
    (s : State) : runSlot fn field phase code s = s := by
  cases fn with
  | noEffect => rfl
  | registered h =>
    obtain rfl : h = inertHandler := of_decide_eq_true inert
    rfl
  | taskFunction => cases inert
  | flagRdram => cases inert
  | flagWrtram => cases inert
  | stub => cases inert

theorem unlessFatal_of_id {f : State → State} {s : State} (h : f s = s) : unlessFatal f s = s := by
  rcases unlessFatal_cases f s with ⟨-, e⟩ | ⟨-, e⟩
  · exact e.trans h
  · exact e

theorem callBs_of_inert {phase : Phase} {code : BitVec 3} {s : State}
    (inert : isInert (bsSlot s.cfg phase s.curTask code) = true) : callBs phase code s = s :=
  unlessFatal_of_id (runSlot_of_inert inert ..)

theorem callF1_of_inert {phase : Phase} {code : BitVec 4} {s : State}
    (inert : isInert (f1Slot s.cfg phase s.curTask code) = true) : callF1 phase code s = s :=
  unlessFatal_of_id (runSlot_of_inert inert ..)

theorem callF2_of_inert {phase : Phase} {code : BitVec 4} {s : State}
    (inert : isInert (f2Slot s.cfg phase s.curTask code) = true) : callF2 phase code s = s :=
  unlessFatal_of_id (runSlot_of_inert inert ..)

/-- The early phase of an undisturbed microinstruction whose early F1 slot is inert does nothing. -/
theorem earlyPhase_of_undisturbed {m : Micro} {s u : State} (h : Undisturbed m s) (cfg : u.cfg = s.cfg)
    (task : u.curTask = s.curTask) (f1 : isInert (f1Slot s.cfg .early s.curTask m.f1) = true) :
    earlyPhase m u = u := by
  unfold earlyPhase
  rw [callF2_of_inert (by rw [cfg, task]; exact h.f2Early), callBs_of_inert (by rw [cfg, task]; exact h.bsEarly),
    callF1_of_inert (by rw [cfg, task]; exact f1)]

/-- The late phase of an undisturbed microinstruction is its F1 slot. -/
theorem latePhase_of_undisturbed {m : Micro} {s u : State} (h : Undisturbed m s) (cfg : u.cfg = s.cfg)
    (task : u.curTask = s.curTask) (running : u.fatal = none) :
    latePhase m u = runSlot (f1Slot s.cfg .late s.curTask m.f1) .f1 .late m.f1.toNat u := by
  have f1 : callF1 .late m.f1 u = runSlot (f1Slot s.cfg .late s.curTask m.f1) .f1 .late m.f1.toNat u := by
    rw [callF1, unlessFatal_running running, cfg, task]
  have after := callF1_threads .late m.f1 u
  unfold latePhase
  rw [callBs_of_inert (by rw [cfg, task]; exact h.bsLate),
    callF2_of_inert (by rw [after.quiet.cfg, after.curTask, cfg, task]; exact h.f2Late), f1]

/-! ### The control RAM requests through a microinstruction -/

/-- The two requests, their address, and the ALU they take it from (R41, R26). -/
def controlRam (s : State) : Bool × Bool × Word × Word := (s.rdramPend, s.wrtramPend, s.cramAddr, s.alu)

theorem controlRam_eq_iff {s t : State} :
    controlRam t = controlRam s ↔
      t.rdramPend = s.rdramPend ∧ t.wrtramPend = s.wrtramPend ∧ t.cramAddr = s.cramAddr ∧ t.alu = s.alu := by
  simp only [controlRam, Prod.mk.injEq]

theorem ContractKept.controlRam_eq {s t : State} (h : ContractKept s t) : controlRam t = controlRam s :=
  controlRam_eq_iff.mpr ⟨h.rdramPend, h.wrtramPend, h.cramAddr, h.alu⟩

@[simp] theorem controlRam_commit (m : Micro) (s : State) : controlRam (commit m s) = controlRam s := by
  unfold commit
  rcases unlessFatal_cases (fun s => commitT m.t (commitL m.l s)) s with ⟨-, e⟩ | ⟨-, e⟩ <;> rw [e]
  simp only [commitT, commitL]
  split_ifs <;> rfl

@[simp] theorem controlRam_resolveSwitch (s : State) : controlRam (resolveSwitch s) = controlRam s := by
  rcases resolveSwitch_cases s with ⟨-, e⟩ | ⟨-, -, e⟩ | ⟨-, -, e⟩ <;> rw [e]
  · rfl
  · exact (callActivate_kept _).controlRam_eq

/-- RDRAM's effect answers its request, wherever it points, and halts nothing (R106). -/
theorem rdramEffect_answers (s : State) :
    (rdramEffect s).rdramPend = false ∧ (rdramEffect s).fatal = s.fatal := by
  unfold rdramEffect
  split_ifs with pending
  · split <;> exact ⟨rfl, rfl⟩
  · exact ⟨Bool.eq_false_iff.mpr pending, rfl⟩

/-- WRTRAM's effect answers its request, wherever it points, keeps RDRAM's, and halts nothing (R109). -/
theorem wrtramEffect_answers (s : State) :
    (wrtramEffect s).wrtramPend = false ∧ (wrtramEffect s).rdramPend = s.rdramPend ∧
      (wrtramEffect s).fatal = s.fatal := by
  unfold wrtramEffect
  split_ifs with pending
  · split <;> exact ⟨rfl, rfl, rfl⟩
  · exact ⟨Bool.eq_false_iff.mpr pending, rfl, rfl⟩

theorem formBus_answers (m : Micro) (s : State) :
    (formBus m s).rdramPend = false ∧ (formBus m s).fatal = s.fatal := by
  obtain ⟨pend, fatal⟩ := rdramEffect_answers (constantPath m { s with bus := 0xFFFF#16 })
  refine ⟨pend, fatal.trans ?_⟩
  unfold constantPath
  split_ifs <;> rfl

/-- Step 6 answers a pending WRTRAM, and keeps RDRAM's request and the running hardware. -/
theorem aluAndWrtram_answers (m : Micro) {s : State} (running : s.fatal = none) :
    (aluAndWrtram m s).wrtramPend = false ∧ (aluAndWrtram m s).rdramPend = s.rdramPend ∧
      (aluAndWrtram m s).fatal = none := by
  obtain ⟨wrtram, rdram, fatal⟩ := wrtramEffect_answers (aluStep m.aluf s)
  have alu : (aluStep m.aluf s).rdramPend = s.rdramPend ∧ (aluStep m.aluf s).fatal = s.fatal := by
    simp only [aluStep]
    split_ifs <;> exact ⟨rfl, rfl⟩
  rw [aluAndWrtram, unlessFatal_running running]
  exact ⟨wrtram, rdram.trans alu.1, fatal.trans (alu.2.trans running)⟩

/-- Requests pending before an undisturbed microinstruction with an inert early F1 slot are answered when its late F1 slot is
reached, and nothing after that slot touches the requests. -/
theorem runMicro_undisturbed_requests {m : Micro} {s : State} (h : Undisturbed m s)
    (early : isInert (f1Slot s.cfg .early s.curTask m.f1) = true) :
    ∃ u, u.rdramPend = false ∧ u.wrtramPend = false ∧
      controlRam (runMicro m s) =
        controlRam (runSlot (f1Slot s.cfg .late s.curTask m.f1) .f1 .late m.f1.toNat u) := by
  let b := formBus m (advance m.next (loadMir m s))
  have bus : Threads (advance m.next (loadMir m s)) b := formBus_threads m _
  have alu : Threads (advance m.next (loadMir m s)) (aluAndWrtram m b) := bus.trans (aluAndWrtram_threads m b)
  obtain ⟨rdram, fatal⟩ : b.rdramPend = false ∧ b.fatal = s.fatal := formBus_answers m _
  obtain ⟨wrtram, rdramKept, running⟩ := aluAndWrtram_answers m (fatal.trans h.running)
  refine ⟨aluAndWrtram m b, rdramKept.trans rdram, wrtram, ?_⟩
  rw [runMicro_of_not_stalled h.running h.notStalled, executeSteps, controlRam_resolveSwitch, controlRam_commit,
    earlyPhase_of_undisturbed h bus.quiet.cfg bus.curTask early,
    latePhase_of_undisturbed h alu.quiet.cfg alu.curTask running]

/-- An undisturbed RDRAM leaves its own request pending and no other, at the ALU's address (R107). -/
theorem exec_rdram {i : Instr} {s : State} (h : Undisturbed (microOf i) s) (distinct : f1CodesOk s.cfg = true)
    (ram : s.curTask ∈ s.cfg.ramTasks) (code : (microOf i).f1 = s.cfg.f1Rdram) :
    ∃ t, exec i s = .next t ∧ t.rdramPend = true ∧ t.wrtramPend = false ∧ t.cramAddr = t.alu := by
  obtain ⟨u, -, wrtram, requests⟩ :=
    runMicro_undisturbed_requests h (by rw [code, f1Slot_rdram distinct, if_pos ram]; rfl)
  rw [code, f1Slot_rdram distinct, if_pos ram] at requests
  obtain ⟨pend, other, addr, alu⟩ := controlRam_eq_iff.mp requests
  exact ⟨_, exec_eq i s, pend, other.trans wrtram, addr.trans alu.symm⟩

/-- An undisturbed WRTRAM leaves its own request pending and no other, at the ALU's address (R108). -/
theorem exec_wrtram {i : Instr} {s : State} (h : Undisturbed (microOf i) s) (distinct : f1CodesOk s.cfg = true)
    (ram : s.curTask ∈ s.cfg.ramTasks) (code : (microOf i).f1 = s.cfg.f1Wrtram) :
    ∃ t, exec i s = .next t ∧ t.wrtramPend = true ∧ t.rdramPend = false ∧ t.cramAddr = t.alu := by
  obtain ⟨u, rdram, -, requests⟩ :=
    runMicro_undisturbed_requests h (by rw [code, f1Slot_wrtram distinct, if_pos ram]; rfl)
  rw [code, f1Slot_wrtram distinct, if_pos ram] at requests
  obtain ⟨other, pend, addr, alu⟩ := controlRam_eq_iff.mp requests
  exact ⟨_, exec_eq i s, pend, other.trans rdram, addr.trans alu.symm⟩

/-- Settles O39: the slots of the two codes, their flag functions, and what an undisturbed one leaves. -/
theorem controlRamCodesFlagTheirRequests : Obligations.ControlRamCodesFlagTheirRequests := by
  refine ⟨fun c k distinct ram => ?_, fun c k phase distinct own => ?_, fun _ _ _ => ⟨rfl, rfl⟩,
    fun i s h distinct ram => ⟨exec_rdram h distinct ram, exec_wrtram h distinct ram⟩⟩
  · simp [f1Slot_rdram distinct, f1Slot_wrtram distinct, ram]
  · simp [f1Slot_rdram distinct, f1Slot_wrtram distinct, own]

end Sys2Proof.Machine
end

section
/-! The family of spec/41_alu.md. What a code of the default table answers: in logic mode its bitwise function with the
fixed carry (R122), in arithmetic mode the two parts of one 17-bit sum (R123), and the codes of both modes from these two. -/

namespace Sys2Proof.Machine

/-! ### The 17-bit sum -/

/-- The sum of R123 never wraps in its 17 bits. -/
theorem toNat_aluSum (a y : Word) (k : Bool) : (aluSum a y k).toNat = a.toNat + y.toNat + k.toNat := by
  have carryIn : (if k then 1#17 else 0#17 : BitVec 17).toNat = k.toNat := by cases k <;> rfl
  have := k.toNat_le
  rw [aluSum, BitVec.toNat_add, carryIn]
  bv_omega

/-- The result is the sum modulo 2^16 (R123). -/
theorem sumResult_aluSum (a y : Word) (k : Bool) :
    sumResult (aluSum a y k) = a + y + BitVec.ofNat 16 k.toNat := by
  apply BitVec.eq_of_toNat_eq
  rw [sumResult, BitVec.toNat_setWidth, toNat_aluSum]
  simp only [BitVec.toNat_add, BitVec.toNat_ofNat, Nat.add_mod_mod, Nat.mod_add_mod]

/-- The carry is true exactly when the sum passes 16 bits (R123). -/
theorem sumCarry_aluSum (a y : Word) (k : Bool) :
    sumCarry (aluSum a y k) = true ↔ 2 ^ 16 ≤ a.toNat + y.toNat + k.toNat := by
  rw [← toNat_aluSum, sumCarry, BitVec.getLsbD, Nat.testBit_eq_decide_div_mod_eq, decide_eq_true_iff]
  have := (aluSum a y k).isLt
  omega

/-! ### The codes of the default table -/

section
variable {c : Config} {a b y : Word} {code : BitVec 4} {cin k : Bool}

/-- A defined code answers its function of the table, with its T source (R120, R121). -/
theorem alu_defaultTable (table : c.aluTable = defaultAluTable) (flags : c.tsel = defaultTsel)
    (defined : code.toNat < 14) :
    alu c a b code cin =
      ⟨(aluFunction c defaultAluTable[code.toNat] a b (carryInOf code cin)).1,
        (aluFunction c defaultAluTable[code.toNat] a b (carryInOf code cin)).2, defaultTsel[code.toNat]⟩ := by
  simp only [alu, dif_pos defined, table, flags]

/-- A code in logic mode: its bitwise function, the fixed carry and its T source (R122). -/
theorem alu_logicMode (table : c.aluTable = defaultAluTable) (flags : c.tsel = defaultTsel)
    (defined : code.toNat < 14)
    (logic : arithmeticInputs defaultAluTable[code.toNat] a b (carryInOf code cin) = none) :
    alu c a b code cin =
      ⟨logicResult defaultAluTable[code.toNat] a b, c.logicCarry, defaultTsel[code.toNat]⟩ := by
  simp only [alu_defaultTable table flags defined, aluFunction, logic]

/-- A code in arithmetic mode, by its second summand and its carry-in: result, carry and T source, the first two in
the words of the code's own rule (R123). -/
theorem alu_arithmeticMode {f : Word} {carries : Prop} (table : c.aluTable = defaultAluTable)
    (flags : c.tsel = defaultTsel) (defined : code.toNat < 14)
    (inputs : arithmeticInputs defaultAluTable[code.toNat] a b (carryInOf code cin) = some (y, k))
    (result : a + y + BitVec.ofNat 16 k.toNat = f)
    (carry : 2 ^ 16 ≤ a.toNat + y.toNat + k.toNat ↔ carries) :
    (alu c a b code cin).result = f ∧ ((alu c a b code cin).carryOut = true ↔ carries) ∧
      (alu c a b code cin).tsel = defaultTsel[code.toNat] := by
  simp only [alu_defaultTable table flags defined, aluFunction, inputs]
  exact ⟨(sumResult_aluSum a y k).trans result, (sumCarry_aluSum a y k).trans carry, trivial⟩

end

/-! ### The arithmetic codes -/

/-- Settles O31: each code is `alu_arithmeticMode` at the summand and the carry-in of its rule. -/
theorem aluArithmeticCodes : Obligations.AluArithmeticCodes := by
  intro c a b cin table flags
  refine ⟨?plus1, ?minus1, ?plusT, ?minusT, ?minusTMinus1, ?plusTPlus1, ?plusSkip⟩
  case plus1 =>
    exact alu_arithmeticMode (y := 0#16) (k := true) table flags (by decide) rfl (by bv_omega) (by bv_omega)
  case minus1 =>
    exact alu_arithmeticMode (y := 0xFFFF#16) (k := false) table flags (by decide) rfl (by bv_omega) (by bv_omega)
  case plusT =>
    exact alu_arithmeticMode (y := b) (k := false) table flags (by decide) rfl (by bv_omega) (by bv_omega)
  case minusT =>
    exact alu_arithmeticMode (y := ~~~b) (k := true) table flags (by decide) rfl (by bv_omega) (by bv_omega)
  case minusTMinus1 =>
    exact alu_arithmeticMode (y := ~~~b) (k := false) table flags (by decide) rfl (by bv_omega) (by bv_omega)
  case plusTPlus1 =>
    exact alu_arithmeticMode (y := b) (k := true) table flags (by decide) rfl (by bv_omega) (by bv_omega)
  case plusSkip =>
    have inputs : arithmeticInputs .busPlusSkip a b (carryInOf skipCode cin) = some (0#16, cin) :=
      congrArg (fun k => some (0#16, k)) (carryInOf_skip cin)
    refine alu_arithmeticMode (code := skipCode) table flags (by decide) inputs ?result ?carry
    case result => cases cin <;> simp
    case carry =>
      cases cin with
      | false => exact iff_of_false (by bv_omega) (by simp)
      | true => rw [eq_self, true_and]; bv_omega

/-! ### The logic codes -/

/-- Settles O30: each code is `alu_logicMode`, and T gets the bus or the result as its T source says. -/
theorem aluLogicCodes : Obligations.AluLogicCodes := by
  intro c a b cin table flags
  have logic := fun code defined => alu_logicMode (a := a) (b := b) (code := code) (cin := cin) table flags defined
  refine ⟨⟨logic 0 (by decide) rfl, logic 1 (by decide) rfl, logic 2 (by decide) rfl, logic 3 (by decide) rfl,
    logic 4 (by decide) rfl, logic 12 (by decide) rfl, logic 13 (by decide) rfl⟩, fun s bus => ?_⟩
  rw [logic 0 (by decide) rfl, logic 1 (by decide) rfl, logic 12 (by decide) rfl]
  exact ⟨rfl, bus, rfl⟩

end Sys2Proof.Machine
end

section
/-! The family of spec/45_timer.md. What `remove` does to the timer queue (R219): its answer says whether an event has the id,
and an id that no event has leaves the state as it is, which is why a second `remove` of an id finds nothing. -/

namespace Sys2Proof.Machine

/-- The answer of `remove` is about the queue's ids. -/
theorem isQueued_iff {s : State} {id : Nat} : isQueued s id = true ↔ ∃ e ∈ s.queue, e.id = id := by
  simp only [isQueued, List.any_eq_true, decide_eq_true_eq]

theorem isQueued_eq_false_iff {s : State} {id : Nat} : isQueued s id = false ↔ ∀ e ∈ s.queue, e.id ≠ id := by
  simp only [isQueued, List.any_eq_false, decide_eq_true_eq, ne_eq]

/-- The queue keeps just the events that have another id. -/
theorem mem_removeEvent_queue {s : State} {id : Nat} {e : Event} :
    e ∈ (removeEvent id s).queue ↔ e ∈ s.queue ∧ e.id ≠ id := by
  simp only [removeEvent_queue, List.mem_filter, decide_eq_true_eq]

/-- The events that stay keep their order. -/
theorem removeEvent_queue_sublist (s : State) (id : Nat) : (removeEvent id s).queue.Sublist s.queue :=
  List.filter_sublist

theorem removeEvent_of_not_queued {s : State} {id : Nat} (h : isQueued s id = false) : removeEvent id s = s := by
  have kept : s.queue.filter (fun e => decide (e.id ≠ id)) = s.queue :=
    List.filter_eq_self.mpr fun e he => decide_eq_true (isQueued_eq_false_iff.mp h e he)
  rw [removeEvent, kept]

theorem isQueued_removeEvent (s : State) (id : Nat) : isQueued (removeEvent id s) id = false :=
  isQueued_eq_false_iff.mpr fun _ he => (mem_removeEvent_queue.mp he).2

/-- Settles O53: the queue is filtered by the id, and the second `remove` is one of an id not queued. -/
theorem removeTakesTheEventOut : Obligations.RemoveTakesTheEventOut :=
  fun s id =>
    ⟨rfl, isQueued_iff, fun _ => mem_removeEvent_queue, removeEvent_queue_sublist s id, rfl,
      removeEvent_of_not_queued, isQueued_removeEvent s id, removeEvent_of_not_queued (isQueued_removeEvent s id)⟩

end Sys2Proof.Machine
end

section
/-! The family of spec/30_encoding.md. A word and its fields determine each other (R80), so the two directions of decoding, and
what rows that share a word mean, come down to the naming of a microinstruction (log entry 5). -/

namespace Sys2Proof

/-- The row that names the fields of a well-formed instruction is the instruction's own, with its own operands. -/
theorem nameMicro_microOf {i : Instr} (own : namingFamily (microOf i) = rowFamily i) : nameMicro (microOf i) = i := by
  unfold nameMicro
  rw [own]
  cases i <;> rfl

/-- Settles O1: decode cuts out the fields that encode composed, and the row that names them is the instruction's own. -/
theorem decodeEncodeWellFormed : Obligations.DecodeEncodeWellFormed := by
  intro i wf
  rw [decode, encode, decodeMicro_microWord]
  exact nameMicro_microOf (of_decide_eq_true wf)

theorem encode_decode (w : MicroWord) : encode (decode w) = w := by
  rw [encode, microOf_decode, microWord_decodeMicro]

/-- The number of a word names it again. -/
theorem ofNat_toNat_word (w : MicroWord) : BitVec.ofNat 32 (w.toNat % 2 ^ 32) = w := by
  rw [Nat.mod_eq_of_lt w.isLt, BitVec.ofNat_toNat, BitVec.setWidth_eq]

/-- Settles O2: the fields of a decoded word are all of its bits; the host's view takes them from the same number. -/
theorem encodeDecodeEveryWord : Obligations.EncodeDecodeEveryWord := by
  refine fun w => ⟨encode_decode w, ?_⟩
  rw [decodeTableWord, if_pos (Nat.le_refl 32), ofNat_toNat_word]

/-- Settles O3: instructions of one word have the same fields, and an instruction runs its fields alone. -/
theorem rowsOfOneWordMeanTheSame : Obligations.RowsOfOneWordMeanTheSame := by
  intro i j s sameWord
  rw [Machine.exec_eq, Machine.exec_eq, microWord_injective sameWord]

/-- Settles O4, by evaluating the decoder on the three words of vector V3.1. -/
theorem specWordsDecode : Obligations.SpecWordsDecode := by
  unfold Obligations.SpecWordsDecode
  decide

end Sys2Proof
end

section
/-! The family of spec/41_alu.md, continued: the undefined codes (R138, R139), what depends on the carry-in (R140), and the signed
reading of the arithmetic codes (R141). -/

namespace Sys2Proof.Machine

/-! ### The undefined codes -/

theorem isUndefinedCode_iff (code : BitVec 4) : isUndefinedCode code = true ↔ code = 14 ∨ code = 15 := by
  rw [isUndefinedCode, decide_eq_true_iff]
  bv_omega

/-- The default policy of an undefined code: no input passes its AND with 0 (R138). -/
theorem alu_undefined_default {c : Config} {k : Bool} {code : BitVec 4} (policy : c.undefAlu = .busAndZero k)
    (undefined : ¬ code.toNat < 14) (a b : Word) (cin : Bool) : alu c a b code cin = ⟨0#16, k, false⟩ := by
  rw [alu, dif_neg undefined, undefOutcome, policy]
  simp

/-- Step 6 logs the code of an undefined function, and logs nothing else. -/
theorem aluStep_log (code : BitVec 4) (s : State) :
    (aluStep code s).log =
      s.log ++ if isUndefinedCode code then [⟨.undefinedAluFunction code, s.curTask, s.mpc, s.now⟩] else [] := by
  unfold aluStep
  split_ifs with undefined
  · rfl
  · exact (List.append_nil _).symm

/-- Settles O32: the default policy by its definition, the log by which codes are undefined. -/
theorem undefinedAluCodesAreLogged : Obligations.UndefinedAluCodesAreLogged := by
  refine ⟨fun c k a b cin policy => ⟨?_, ?_⟩, fun s => ⟨aluStep_log 14 s, aluStep_log 15 s, fun code h14 h15 => ?_⟩⟩
  · exact alu_undefined_default policy (by decide) a b cin
  · exact alu_undefined_default policy (by decide) a b cin
  · have defined : ¬ isUndefinedCode code = true := (isUndefinedCode_iff code).not.mpr (not_or.mpr ⟨h14, h15⟩)
    rw [aluStep_log, if_neg defined, List.append_nil]

/-! ### The carry-in -/

/-- A code other than 013 sees no carry-in, so its outcome is the same with either (R140). -/
theorem alu_carryIn_irrelevant {code : BitVec 4} (other : code ≠ skipCode) (c : Config) (a b : Word) :
    alu c a b code true = alu c a b code false := by
  simp only [alu, carryInOf_other other]

/-! ### The results alone -/

/-- A result depends on the table of functions alone: the T sources may be any. -/
theorem alu_result_congr {c d : Config} (table : c.aluTable = d.aluTable) (carry : c.logicCarry = d.logicCarry)
    {code : BitVec 4} (defined : code.toNat < 14) (a b : Word) (cin : Bool) :
    (alu c a b code cin).result = (alu d a b code cin).result := by
  simp only [alu, dif_pos defined, aluFunction, table, carry]

/-- The arithmetic codes' results, whatever the T sources are. -/
theorem aluArithmeticResults {c : Config} (table : c.aluTable = defaultAluTable) (a b : Word) (cin : Bool) :
    (alu c a b 5 cin).result = a + 1#16 ∧ (alu c a b 6 cin).result = a - 1#16 ∧
    (alu c a b 7 cin).result = a + b ∧ (alu c a b 8 cin).result = a - b ∧
    (alu c a b 9 cin).result = a - b - 1#16 ∧ (alu c a b 10 cin).result = a + b + 1#16 ∧
    (alu c a b 11 cin).result = if cin then a + 1#16 else a := by
  have same := fun code defined =>
    alu_result_congr (c := c) (d := { c with tsel := defaultTsel }) rfl rfl (code := code) defined a b cin
  obtain ⟨plus1, minus1, plusT, minusT, minusTMinus1, plusTPlus1, plusSkip⟩ :=
    aluArithmeticCodes { c with tsel := defaultTsel } a b cin table rfl
  exact ⟨(same 5 (by decide)).trans plus1.1, (same 6 (by decide)).trans minus1.1, (same 7 (by decide)).trans plusT.1,
    (same 8 (by decide)).trans minusT.1, (same 9 (by decide)).trans minusTMinus1.1,
    (same 10 (by decide)).trans plusTPlus1.1, (same 11 (by decide)).trans plusSkip.1⟩

/-- Settles O33: every code but 013 is given no carry-in, and BUS + 1 differs from BUS. -/
theorem carryInMattersOnlyForSkip : Obligations.CarryInMattersOnlyForSkip := by
  refine ⟨fun c a b code other => alu_carryIn_irrelevant other c a b, fun c a b table same => ?_⟩
  obtain ⟨-, -, -, -, -, -, withCarry⟩ := aluArithmeticResults table a b true
  obtain ⟨-, -, -, -, -, -, without⟩ := aluArithmeticResults table a b false
  have bad : a + 1#16 = a := withCarry.symm.trans (same.trans without)
  bv_omega

/-- Settles O34: the results are sums and differences of words, which are those of the signed readings modulo 2^16. -/
theorem aluIsTwosComplement : Obligations.AluIsTwosComplement := by
  intro c a b cin table
  obtain ⟨plus1, minus1, plusT, minusT, minusTMinus1, plusTPlus1, plusSkip⟩ := aluArithmeticResults table a b cin
  have one : (1#16).toInt = 1 := by decide
  rw [plus1, minus1, plusT, minusT, minusTMinus1, plusTPlus1, plusSkip]
  simp only [BitVec.toInt_add, BitVec.toInt_sub, one, Int.bmod_sub_bmod, Int.bmod_add_bmod, true_and]
  cases cin with
  | true => rw [if_pos rfl, if_pos rfl, BitVec.toInt_add, one]
  | false =>
    rw [if_neg Bool.false_ne_true, if_neg Bool.false_ne_true, Int.add_zero]
    exact (BitVec.toInt_bmod_cancel a).symm

end Sys2Proof.Machine
end

section
/-! The families of spec/42_dispatch.md section 4 and spec/40_microcode_store.md sections 2 to 4, continued: the constant path
(R158), the effects of RDRAM and WRTRAM (R106, R109), and a word written and read back (R111). -/

namespace Sys2Proof.Machine

/-! ### The constant path -/

theorem usesConstant_iff (c : Config) (m : Micro) :
    usesConstant c m = true ↔ 4 ≤ m.bs.toNat ∨ m.f1 = c.f1Const ∨ m.f2 = c.f2Const :=
  decide_eq_true_iff

/-- Settles O35: the two branches of the constant path. -/
theorem constantPathNarrowsTheBus : Obligations.ConstantPathNarrowsTheBus := by
  refine fun m s => ⟨fun selected => ?_, fun bs f1 f2 => ?_⟩
  · rw [constantPath, if_pos ((usesConstant_iff _ _).mpr selected)]
    rfl
  · have unselected : ¬ usesConstant s.cfg m = true := by
      rw [usesConstant_iff]
      exact not_or.mpr ⟨Nat.not_le.mpr bs, not_or.mpr ⟨f1, f2⟩⟩
    rw [constantPath, if_neg unselected]

/-! ### The effects of a pending request -/

theorem rdramEffect_idle {s : State} (idle : s.rdramPend = false) : rdramEffect s = s := by
  simp [rdramEffect, idle]

theorem rdramEffect_hit {s : State} {a : Nat} (pending : s.rdramPend = true)
    (target : cramTarget s.cfg s.cramAddr = some a) :
    rdramEffect s = { s with rdramPend := false, bus := s.bus &&& rdramData s a } := by
  simp only [rdramEffect, pending, if_true, target]
  rfl

theorem rdramEffect_miss {s : State} (pending : s.rdramPend = true) (noTarget : cramTarget s.cfg s.cramAddr = none) :
    rdramEffect s = { logReport (.rdramOutOfRange s.cramAddr) s with rdramPend := false } := by
  simp only [rdramEffect, pending, if_true, noTarget]

theorem wrtramEffect_idle {s : State} (idle : s.wrtramPend = false) : wrtramEffect s = s := by
  simp [wrtramEffect, idle]

theorem wrtramEffect_hit {s : State} {a : Nat} (pending : s.wrtramPend = true)
    (target : wrtramTarget s.cfg s.cramAddr = some a) :
    wrtramEffect s = { s with wrtramPend := false, store := Memory.write s.store a (wrtramData s) } := by
  simp only [wrtramEffect, pending, if_true, target]
  rfl

theorem wrtramEffect_miss {s : State} (pending : s.wrtramPend = true)
    (noTarget : wrtramTarget s.cfg s.cramAddr = none) :
    wrtramEffect s = { logReport (.wrtramIgnored s.cramAddr) s with wrtramPend := false } := by
  simp only [wrtramEffect, pending, if_true, noTarget]

/-! ### The targets of the default layout -/

/-- R105 with the default layout: bit 11 tells ROM from RAM, bits 15..12 the page, bits 9..0 the word. -/
theorem cramTarget_default {c : Config} (layout : c.cramLayout = defaultCramLayout) (a : Word) :
    cramTarget c a =
      if a.toNat / 2048 % 2 = 0 then
        if a.toNat / 4096 < c.ramPages then some ((c.romPages + a.toNat / 4096) * 1024 + a.toNat % 1024) else none
      else
        if a.toNat / 4096 < c.romPages then some (a.toNat / 4096 * 1024 + a.toNat % 1024) else none := by
  simp only [cramTarget, layout, cramWord_default, cramBank_default, cramIsRom_default, pageWords]
  rcases Nat.mod_two_eq_zero_or_one (a.toNat / 2048) with ram | rom
  · simp [ram]
  · simp [rom]

/-- WRTRAM reaches the RAM pages alone (R109). -/
theorem wrtramTarget_default {c : Config} (layout : c.cramLayout = defaultCramLayout) (a : Word) :
    wrtramTarget c a =
      if a.toNat / 2048 % 2 = 0 ∧ a.toNat / 4096 < c.ramPages then
        some ((c.romPages + a.toNat / 4096) * 1024 + a.toNat % 1024)
      else none := by
  rw [wrtramTarget, cramTarget_default layout, layout, cramIsRom_default]
  rcases Nat.mod_two_eq_zero_or_one (a.toNat / 2048) with ram | rom
  · simp [ram]
  · simp [rom]

/-- Settles O36: the three ways of the RDRAM effect, and the target under the default layout. -/
theorem rdramNarrowsTheBusOrLogs : Obligations.RdramNarrowsTheBusOrLogs := by
  refine fun s => ⟨rdramEffect_idle, fun a pending target => rdramEffect_hit pending target,
    fun pending noTarget => rdramEffect_miss pending noTarget, fun layout => ⟨?_, cramTarget_default layout _⟩⟩
  rw [layout]
  rfl

/-- Settles O37: the three ways of the WRTRAM effect, and the target under the default layout. -/
theorem wrtramWritesOrLogs : Obligations.WrtramWritesOrLogs :=
  fun _ => ⟨wrtramEffect_idle, fun _ pending target => wrtramEffect_hit pending target,
    fun pending noTarget => wrtramEffect_miss pending noTarget, fun layout => wrtramTarget_default layout _⟩

/-! ### The round trip -/

/-- The halves of a word put together from two data words. -/
theorem halfOf_append (high : Bool) (v w : Word) : halfOf high (v ++ w) = if high then v else w := by
  cases high with
  | true => exact BitVec.extractLsb'_append_eq_left
  | false => exact BitVec.extractLsb'_append_eq_right

/-- Settles O38: the store holds the word written, and the inversion undoes itself. -/
theorem wrtramThenRdramReadsBack : Obligations.WrtramThenRdramReadsBack := by
  intro s u a pending target store cfg rdram same
  have written : ucRead u a = (s.l ++ s.alu) ^^^ s.cfg.ucInv := by
    rw [ucRead, store, wrtramEffect_hit pending target]
    exact Memory.read_write_same ..
  have data : rdramData u a = if u.cramAddr.getLsbD u.cfg.cramLayout.halfBit.val then s.l else s.alu := by
    rw [rdramData, written, cfg, BitVec.xor_assoc, BitVec.xor_self, BitVec.xor_zero, halfOf_append]
    rfl
  refine ⟨?_, written⟩
  rw [rdramEffect_hit rdram same, ← data]

end Sys2Proof.Machine
end

section
/-! The families of spec/45_timer.md, spec/10_state.md and spec/20_memory.md section 3, continued: insert and the head of the
queue (R217, R221), an event fired (R220), what reset leaves (R261), and the register files (R66). -/

namespace Sys2Proof.Machine

/-! ### Insert -/

/-- Settles O52: the leave check, as a proposition. -/
theorem insertInsideASliceSetsLeave : Obligations.InsertInsideASliceSetsLeave := by
  intro s d c a n
  simp only [insertEvent_leave, leavesSlice, Bool.or_eq_true, Bool.and_eq_true, decide_eq_true_eq]

theorem Event.time_le_of_not_after {e f : Event} (ordered : eventBefore e f) : e.time ≤ f.time := by
  unfold eventBefore at ordered
  omega

/-- In an ordered queue the events due by a time stand before all later ones. -/
theorem queue_split {queue : List Event} (sorted : queue.Pairwise eventBefore) (time : Nat) :
    queue = queue.filter (fun q => decide (q.time ≤ time)) ++ queue.filter (fun q => decide (time < q.time)) := by
  induction queue with
  | nil => rfl
  | cons e rest ih =>
    obtain ⟨first, rest_sorted⟩ := List.pairwise_cons.mp sorted
    by_cases due : e.time ≤ time
    · have notLater : ¬ time < e.time := Nat.not_lt.mpr due
      simpa [due, notLater] using ih rest_sorted
    · have later : ∀ q ∈ rest, ¬ q.time ≤ time := fun q hq => by
        have := Event.time_le_of_not_after (first q hq)
        omega
      have noneDue : rest.filter (fun q => decide (q.time ≤ time)) = [] :=
        List.filter_eq_nil_iff.mpr fun q hq => by simpa using later q hq
      have allLater : rest.filter (fun q => decide (time < q.time)) = rest :=
        List.filter_eq_self.mpr fun q hq => by simpa using later q hq
      simp [due, Nat.not_le.mp due, noneDue, allLater]

/-- Settles O51: an ordered queue is split by the event's time, and the event put between the parts. -/
theorem insertPutsOneEventInItsPlace : Obligations.InsertPutsOneEventInItsPlace := by
  intro s d c a n timer
  refine ⟨rfl, _, _, queue_split timer.sorted (s.now + d), rfl, fun e he => ?_, fun e he => ?_⟩
  · exact of_decide_eq_true (List.mem_filter.mp he).2
  · exact of_decide_eq_true (List.mem_filter.mp he).2

/-! ### The head of the queue -/

/-- Settles O56: subtraction of natural numbers is 0 for an event already due. -/
theorem timeUntilNextLooksAtTheHead : Obligations.TimeUntilNextLooksAtTheHead := by
  refine fun s => ⟨fun empty => ?_, fun e rest head => ?_⟩
  · rw [timeUntilNext, empty]
    rfl
  · have gap : (if s.now < e.time then e.time - s.now else 0) = e.time - s.now := by
      split_ifs <;> omega
    rw [timeUntilNext, head, gap]
    rfl

/-- The event `fire_due` fires is the head of the queue, due, and the hardware runs. -/
theorem dueEvent_eq_some_iff {s : State} {e : Event} :
    dueEvent s = some e ↔ s.fatal = none ∧ s.queue.head? = some e ∧ e.time ≤ s.now := by
  unfold dueEvent
  split_ifs with halted
  · simp [Option.isSome_iff_ne_none.mp halted]
  · have running : s.fatal = none := by simpa using halted
    simp [running, Option.filter_eq_some_iff]

theorem dueEvent_of_fatal {s : State} (halted : s.fatal ≠ none) : dueEvent s = none :=
  Option.eq_none_iff_forall_ne_some.mpr fun _ due => halted (dueEvent_eq_some_iff.mp due).1

theorem fireDue_due {s : State} {e : Event} (due : dueEvent s = some e) :
    fireDue s = { runEvent e s with reply := some (.fired (some e.id)) } := by
  simp only [fireDue, due]

theorem fireDue_idle {s : State} (idle : dueEvent s = none) : fireDue s = { s with reply := some (.fired none) } := by
  simp only [fireDue, idle]

/-- The reply of `fire_due` is the id of the event it fired. -/
theorem fireDue_reply (s : State) : (fireDue s).reply = some (.fired ((dueEvent s).map (·.id))) := by
  cases due : dueEvent s with
  | none => rw [fireDue_idle due]; rfl
  | some e => rw [fireDue_due due]; rfl

@[simp] theorem fireDue_now (s : State) : (fireDue s).now = s.now := by
  cases due : dueEvent s with
  | none => rw [fireDue_idle due]
  | some e => rw [fireDue_due due]; rfl

/-- In an ordered queue the head is before every other event. -/
theorem head_eventBefore {s : State} (timer : TimerOk s) {e f : Event} (head : s.queue.head? = some e)
    (queued : f ∈ s.queue) : f = e ∨ eventBefore e f := by
  obtain ⟨rest, queue⟩ := List.head?_eq_some_iff.mp head
  have sorted := timer.sorted
  rw [queue] at sorted queued
  rcases List.mem_cons.mp queued with same | later
  · exact .inl same
  · exact .inr ((List.pairwise_cons.mp sorted).1 f later)

/-- Nothing is due exactly when every queued event lies after NOW. -/
theorem dueEvent_eq_none_iff {s : State} (timer : TimerOk s) (running : s.fatal = none) :
    dueEvent s = none ↔ ∀ e ∈ s.queue, s.now < e.time := by
  constructor
  · intro idle f queued
    cases head : s.queue.head? with
    | none => simp [List.head?_eq_none_iff.mp head] at queued
    | some e =>
      have later : s.now < e.time := by
        by_contra due
        have fires := dueEvent_eq_some_iff.mpr ⟨running, head, Nat.not_lt.mp due⟩
        simp [idle] at fires
      rcases head_eventBefore timer head queued with rfl | ordered
      · exact later
      · exact later.trans_le (Event.time_le_of_not_after ordered)
  · refine fun later => Option.eq_none_iff_forall_ne_some.mpr fun e due => ?_
    obtain ⟨-, head, time⟩ := dueEvent_eq_some_iff.mp due
    exact absurd (later e (List.mem_of_head? head)) (Nat.not_lt.mpr time)

/-- Settles O54: the event fired is the head, and the head is before every other event. -/
theorem fireDueTakesTheLeastEvent : Obligations.FireDueTakesTheLeastEvent := by
  refine fun s timer running => ⟨fun e due => ?_, dueEvent_eq_none_iff timer running, fireDue_now s, fireDue_reply s⟩
  obtain ⟨-, head, time⟩ := dueEvent_eq_some_iff.mp due
  exact ⟨List.mem_of_head? head, time, fun f queued => head_eventBefore timer head queued⟩

/-! ### An event fired -/

/-- The state in which the callback of the head of the queue runs. -/
def callbackState (e : Event) (s : State) : State := { s with queue := s.queue.tail, now := e.time }

theorem runEvent_eq (e : Event) (s : State) :
    runEvent e s = { callHandler (callbackOf s.cfg e.callback) (some e.arg) (callbackState e s) with now := s.now } :=
  rfl

/-- A handler of one unconditional write is that write. -/
theorem callHandler_oneAction (a : Action) (arg : Option Int) (s : State) :
    callHandler (oneAction a) arg s = applyAction s a :=
  rfl

/-- A callback of one write, on the state it sees. -/
theorem fireDue_oneAction {s : State} {e : Event} {a : Action} (due : dueEvent s = some e)
    (callback : callbackOf s.cfg e.callback = oneAction a) :
    fireDue s = { applyAction (callbackState e s) a with now := s.now, reply := some (.fired (some e.id)) } := by
  rw [fireDue_due due, runEvent_eq, callback, callHandler_oneAction]

/-- Settles O55: `fireDue` unfolded, and the three callbacks of one write on the state they see. -/
theorem callbackSeesItsOwnTime : Obligations.CallbackSeesItsOwnTime := by
  intro s e due
  obtain ⟨-, head, -⟩ := dueEvent_eq_some_iff.mp due
  refine ⟨?call, fun d c a n callback outside => ?insert, fun callback alone => ?remove, fun text callback => ?log⟩
  case call =>
    obtain ⟨rest, queue⟩ := List.head?_eq_some_iff.mp head
    refine ⟨rest, queue, ?_⟩
    rw [fireDue_due due, runEvent_eq, callbackState, queue, List.tail_cons]
  case insert =>
    rw [fireDue_oneAction due callback]
    simp only [applyAction, insertEvent, leavesSlice, callbackState, outside, Bool.false_and, Bool.or_false]
  case remove =>
    have unqueued : isQueued (callbackState e s) e.id = false := isQueued_eq_false_iff.mpr alone
    rw [fireDue_oneAction due callback, applyAction, removeEvent_of_not_queued unqueued]
    rfl
  case log =>
    rw [fireDue_oneAction due callback]
    rfl

/-! ### The register files -/

theorem readR_writeR (s : State) (i j : RegSel) (v : Word) :
    readR (writeR i v s) j = if j = i then v else readR s j := by
  simp only [readR, writeR_r, Vector.getElem_set, BitVec.toNat_inj, eq_comm]

theorem readS_writeS {s : State} {b : Nat} (bank : b < s.sBanks.length) (b' : Nat) (i j : RegSel) (v : Word) :
    readS (writeS b i v s) b' j = if b' = b ∧ j = i then v else readS s b' j := by
  by_cases same : b' = b
  · subst same
    simp only [readS, writeS_sBanks, List.getElem?_modify_eq, List.getElem?_eq_getElem bank, Option.map_eq_map,
      Option.map_some, Vector.getElem_set, BitVec.toNat_inj, eq_comm, true_and]
  · simp only [readS, writeS_sBanks, List.getElem?_modify_ne _ _ (Ne.symm same), same, false_and, if_false]

/-- Settles O57: a write of a register file reads back. -/
theorem registerFilesReadBack : Obligations.RegisterFilesReadBack := by
  refine fun s v => ⟨fun i => readR_writeR s s.rsel i v, fun b bank b' i => readS_writeS bank b' s.rsel i v,
    fun k n j => ?_⟩
  simp only [applyAction, Vector.getElem_set, Fin.val_inj, eq_comm]

/-! ### Reset -/

/-- The two parts of a micro-address hold its number (log entry 11). -/
@[simp] theorem MicroAddr.toNat_ofNat (n : Nat) : (MicroAddr.ofNat n).toNat = n := by
  simp only [MicroAddr.toNat, MicroAddr.ofNat, pageWords, BitVec.toNat_ofNat]
  omega

/-- Settles O58: the values of `State.init`, element by element. -/
theorem resetLeavesTheSpecsValues : Obligations.ResetLeavesTheSpecsValues := by
  intro c image k i s
  have saved : s.tmpc[k.val] = MicroAddr.ofNat c.resetMpc[k.val] := Vector.getElem_map ..
  have zeroBank : ∀ b, b < c.nsBank → readS s b i = 0#16 := fun b hb => by
    simp [s, readS, State.init, hb]
  refine ⟨⟨rfl, rfl, rfl, rfl⟩, ⟨rfl, rfl, rfl⟩, ⟨saved, ?_, Vector.getElem_replicate ..⟩,
    ⟨Vector.getElem_replicate .., List.length_replicate, zeroBank⟩, ⟨rfl, rfl, rfl, rfl, rfl, rfl, rfl⟩,
    ⟨rfl, rfl, rfl, rfl⟩, ⟨rfl, rfl, rfl⟩, ⟨Vector.getElem_replicate .., Vector.getElem_replicate .., rfl⟩,
    ⟨rfl, rfl, rfl, rfl⟩, ⟨rfl, rfl, rfl, rfl, rfl⟩⟩
  rw [saved, MicroAddr.toNat_ofNat]

end Sys2Proof.Machine
end

section
/-! The families of spec/42_dispatch.md sections 1 and 2 and spec/60_exceptions.md section 1, continued: what every call of a
collaborator keeps (R150), what a fatal call leaves (R240), and the slots that no handler holds (R152). -/

namespace Sys2Proof.Machine

/-! ### The contract, however a collaborator is called -/

/-- All that R150, R104 and R244 hold a collaborator to. -/
def Contract (s t : State) : Prop := ContractKept s t ∧ s.next2 &&& t.next2 = s.next2 ∧ OnlyGrows s t

theorem Contract.refl (s : State) : Contract s s := ⟨.refl s, BitVec.and_self, .refl s⟩

theorem callHandler_contract (h : Handler) (arg : Option Int) (s : State) : Contract s (callHandler h arg s) := by
  obtain ⟨kept, next2, -⟩ := callHandler_spec h arg s
  exact ⟨kept, next2, callHandler_grows h arg s⟩

theorem tick_contract (s : State) : Contract s (tick s) := by
  unfold tick
  split
  · exact callHandler_contract ..
  · exact .refl s

theorem callActivate_contract (s : State) : Contract s (callActivate s) := by
  unfold callActivate
  split
  · exact callHandler_contract ..
  · exact .refl s

/-- A timer callback's time and queue are its event's (R220); against the state before the firing, with NOW restored, it keeps
the contract too. -/
theorem runEvent_contract (e : Event) (s : State) : Contract s (runEvent e s) := by
  obtain ⟨kept, next2, grows⟩ :=
    callHandler_contract (callbackOf s.cfg e.callback) (some e.arg) (callbackState e s)
  exact ⟨{ kept with now := rfl }, next2, ⟨grows.log, grows.nextId, grows.leave⟩⟩

/-- Settles O17: each way of calling a collaborator is a call of its handler, or none. -/
theorem handlersKeepTheirContract : Obligations.HandlersKeepTheirContract :=
  ⟨fun h _ _ _ s => callHandler_contract h none s, tick_contract, callActivate_contract, runEvent_contract⟩

/-- Settles O14: what no part of a microinstruction changes. -/
theorem instructionFrame : Obligations.InstructionFrame := by
  intro i s t run
  rw [exec_eq] at run
  obtain rfl := Host.Outcome.next.inj run
  have quiet := runMicro_quiet (microOf i) s
  exact ⟨quiet.now, quiet.taskNs, quiet.remain, quiet.inSlice, quiet.sliceEnd, quiet.cfg, quiet.mpc, quiet.hostCalls,
    quiet.budget, quiet.reply, quiet.nextId, quiet.log⟩

/-! ### Fatal calls -/

/-- Settles O18: lines that return a context keep the fatal state, so a call that ends fatal is one that raised the fault. -/
theorem fatalCallDiscardsItsWrites : Obligations.FatalCallDiscardsItsWrites := by
  intro h arg s running ends
  rcases callHandler_cases h arg s with returned | ⟨kind, reason, kinds, raised⟩
  · obtain ⟨-, fatal, -⟩ := runLines_spec returned
    exact absurd (fatal.trans running) ends
  · exact ⟨kind, reason, kinds, raised⟩

/-! ### Step 5 before the handlers -/

/-- The log entries that a state makes of reports (R244). -/
def entries (s : State) (reports : List AnomalyReport) : List Anomaly :=
  reports.map fun report => { report := report, task := s.curTask, mpc := s.mpc, now := s.now }

/-- The report of an RDRAM that has no target (R106). -/
def rdramReports (s : State) : List AnomalyReport :=
  if s.rdramPend = true ∧ cramTarget s.cfg s.cramAddr = none then [.rdramOutOfRange s.cramAddr] else []

/-- A state with another word on the bus. -/
def withBus (v : Word) (s : State) : State := { s with bus := v }

/-- The constant path on a bus of all ones (R158, R196). -/
theorem constantPath_allOnes (m : Micro) (s : State) :
    constantPath m (withBus 0xFFFF#16 s) =
      withBus (if usesConstant s.cfg m then constRead s.cfg (constAddress m) else 0xFFFF#16) s := by
  by_cases selected : usesConstant s.cfg m = true
  · rw [if_pos selected]
    exact (if_pos selected).trans (congrArg (withBus · s) BitVec.allOnes_and)
  · rw [if_neg selected]
    exact if_neg selected

/-- Step 5 before the handlers puts the core's own bus there, answers a pending RDRAM, and logs it where it has no target. -/
theorem formBus_eq (m : Micro) (s : State) :
    formBus m s =
      { s with bus := coreBus m s, rdramPend := false, log := s.log ++ entries s (rdramReports s) } := by
  have start : formBus m s = rdramEffect (constantPath m (withBus 0xFFFF#16 s)) := rfl
  have noData (v : Word) : v &&& 65535#16 = v := BitVec.and_allOnes
  rw [start, constantPath_allOnes]
  generalize bus : (if usesConstant s.cfg m then constRead s.cfg (constAddress m) else 0xFFFF#16) = v
  cases pending : s.rdramPend with
  | false =>
    rw [rdramEffect_idle (s := withBus v s) pending]
    simp [withBus, coreBus, rdramReports, entries, pending, bus, noData]
  | true =>
    cases target : cramTarget s.cfg s.cramAddr with
    | some a =>
      rw [rdramEffect_hit (s := withBus v s) pending target]
      simp [withBus, coreBus, rdramReports, entries, pending, target, bus]
      rfl
    | none =>
      rw [rdramEffect_miss (s := withBus v s) pending target]
      simp [withBus, coreBus, rdramReports, entries, pending, target, logReport, bus, noData]

/-! ### The stub -/

theorem collaboratorSlot_stub {table : List Registration} {phase : Phase} {k : Task} {code : Nat}
    (unregistered : findRegistration table phase k code = none) : collaboratorSlot table phase k code = .stub := by
  rw [collaboratorSlot, unregistered]

theorem callF2_running {phase : Phase} {code : BitVec 4} {s : State} (running : s.fatal = none) :
    callF2 phase code s = runSlot (f2Slot s.cfg phase s.curTask code) .f2 phase code.toNat s :=
  unlessFatal_running running

theorem callF1_running {phase : Phase} {code : BitVec 4} {s : State} (running : s.fatal = none) :
    callF1 phase code s = runSlot (f1Slot s.cfg phase s.curTask code) .f1 phase code.toNat s :=
  unlessFatal_running running

theorem callBs_running {phase : Phase} {code : BitVec 3} {s : State} (running : s.fatal = none) :
    callBs phase code s = runSlot (bsSlot s.cfg phase s.curTask code) .bs phase code.toNat s :=
  unlessFatal_running running

/-- When the early F2 call ends fatal, nothing of the microinstruction comes after it (R154, R202). -/
theorem executeSteps_of_fatal_f2 {m : Micro} {s : State} (fatal : (callF2 .early m.f2 (formBus m s)).fatal ≠ none) :
    executeSteps m s = callF2 .early m.f2 (formBus m s) := by
  unfold executeSteps earlyPhase
  generalize callF2 .early m.f2 (formBus m s) = u at fatal
  simp only [callBs, callF1, callF2, aluAndWrtram, latePhase, commit, resolveSwitch, unlessFatal_halted fatal]

/-- An instruction whose early F2 slot is the stub leaves the bus formed, the micro-PC advanced, and the fault. -/
theorem runMicro_of_f2_stub {m : Micro} {s : State} (running : s.fatal = none)
    (goes : isStalled (loadMir m s) = false) (stub : f2Slot s.cfg .early s.curTask m.f2 = .stub) :
    runMicro m s =
      raiseFatal (slotFatalInfo .undefinedSlot .f2 .early m.f2.toNat s)
        (formBus m (advance m.next (loadMir m s))) := by
  let b := formBus m (advance m.next (loadMir m s))
  have bus : Threads (advance m.next (loadMir m s)) b := formBus_threads m _
  have fatal : b.fatal = none := (formBus_answers m _).2.trans running
  have info : slotFatalInfo .undefinedSlot .f2 .early m.f2.toNat b =
      slotFatalInfo .undefinedSlot .f2 .early m.f2.toNat s := by
    simp [slotFatalInfo, fatalInfo, bus.curTask, bus.quiet.mpc, bus.quiet.now]
  have call : callF2 .early m.f2 b = raiseFatal (slotFatalInfo .undefinedSlot .f2 .early m.f2.toNat s) b := by
    rw [callF2_running fatal, bus.quiet.cfg, bus.curTask, advance_cfg, loadMir_cfg, advance_curTask, loadMir_curTask,
      stub, ← info]
    rfl
  rw [runMicro_of_not_stalled running goes, executeSteps_of_fatal_f2 (by rw [call]; exact Option.some_ne_none _), call]

/-- Settles O22: a slot is the stub where no registration is found, and an early F2 stub ends its instruction. -/
theorem undefinedSlotIsFatal : Obligations.UndefinedSlotIsFatal := by
  refine ⟨fun c p k code unregistered => collaboratorSlot_stub unregistered, fun c p k code notCore unregistered => ?_,
    fun c p k code notCore unregistered => ?_, fun _ _ _ _ => rfl, fun i s running goes stub => ?_⟩
  · rw [f1Slot, notCore, Option.getD_none, collaboratorSlot_stub unregistered]
  · rw [f2Slot, notCore, Option.getD_none, collaboratorSlot_stub unregistered]
  · refine ⟨_, (exec_eq i s).trans (congrArg _ (runMicro_of_f2_stub running goes stub)), ?_⟩
    rw [formBus_eq]
    exact ⟨rfl, rfl, rfl, rfl, rfl, rfl, rfl, rfl, rfl, rfl, rfl, rfl⟩

end Sys2Proof.Machine
end

section
/-! The families of spec/43_scheduler.md and spec/44_engine.md section 2, continued: TASK (R171, R172), the switch of step 9 (R175,
R253), the commits of step 8 (R199, R200), and a stalled microcycle (R195). -/

namespace Sys2Proof.Machine

/-! ### TASK -/

theorem f1Slot_task (c : Config) (phase : Phase) (k : Task) : f1Slot c phase k f1Task = .taskFunction := by
  unfold f1Slot coreF1
  rw [if_pos rfl, Option.getD_some]

theorem taskFunction_early_of_request {s : State} {k : Task} (request : highestRequester s.wakeup = some k) :
    taskFunction .early s = { s with nnTask := k } := by
  simp only [taskFunction, request]

theorem taskFunction_early_of_no_request {s : State} (idle : s.wakeup = 0#16) :
    taskFunction .early s = raiseFatal (slotFatalInfo .noTaskRequesting .f1 .early f1Task.toNat s) s := by
  simp only [taskFunction, highestRequester_none.mpr idle]

theorem exists_highestRequester {w : Word} (request : w ≠ 0#16) : ∃ k, highestRequester w = some k :=
  Option.ne_none_iff_exists'.mp (highestRequester_none.not.mpr request)

/-- Settles O24: TASK's slot in every phase and task, and its early phase by whether a task requests. -/
theorem taskSamplesTheHighestRequester : Obligations.TaskSamplesTheHighestRequester := by
  refine ⟨f1Slot_task, fun s request => ?_, fun s idle => taskFunction_early_of_no_request idle, fun _ => rfl⟩
  obtain ⟨k, highest⟩ := exists_highestRequester request
  obtain ⟨requesting, noneAbove⟩ := highestRequester_some highest
  exact ⟨k, taskFunction_early_of_request highest, requesting, noneAbove⟩

/-! ### Step 9 -/

theorem resolveSwitch_stay {s : State} (running : s.fatal = none) (same : s.curTask = s.nextTask) :
    resolveSwitch s = { s with nextTask := s.nnTask } :=
  (unlessFatal_running running).trans (if_pos same)

theorem resolveSwitch_switch {s : State} (running : s.fatal = none) (other : s.curTask ≠ s.nextTask) :
    resolveSwitch s = callActivate (switchTo s.nextTask s) :=
  (unlessFatal_running running).trans (if_neg other)

/-- The pair a switch restores is the saved one: the save area written is another task's (R175). -/
theorem switchTo_eq {s : State} {k : Task} (other : s.curTask ≠ k) :
    switchTo k s =
      { s with
        tmpc := s.tmpc.set s.curTask.val s.nextPc
        tnext2 := s.tnext2.set s.curTask.val s.next2
        curTask := k
        nextPc := s.tmpc[k.val]
        next2 := s.tnext2[k.val] } := by
  have apart : s.curTask.val ≠ k.val := Fin.val_ne_of_ne other
  simp only [switchTo, restoreTask, saveTask, Vector.getElem_set_ne _ _ apart]

/-- Settles O25: the two branches of step 9. -/
theorem switchCommitsOrDefers : Obligations.SwitchCommitsOrDefers := by
  refine fun s running => ⟨resolveSwitch_stay running, fun other => ?_⟩
  rw [resolveSwitch_switch running other, switchTo_eq other]

/-! ### What an instruction does to the tasks -/

/-- The running task keeps the datapath, at an address of its page, and no save area is written. -/
structure Stays (s t : State) : Prop where
  curTask : t.curTask = s.curTask
  tmpc : t.tmpc = s.tmpc
  tnext2 : t.tnext2 = s.tnext2
  page : t.nextPc.page = s.nextPc.page ∨ t.nextPc.page = s.mpc.page

/-- Another task gets the datapath: the next one, at its saved micro-PC and with its saved modifier; the save area of the task
before it is written, in its page, and no other. -/
structure Switches (s t : State) : Prop where
  other : s.curTask ≠ s.nextTask
  curTask : t.curTask = s.nextTask
  nextTask : t.nextTask = s.nextTask
  nextPc : t.nextPc = s.tmpc[s.nextTask.val]
  next2 : s.tnext2[s.nextTask.val] &&& t.next2 = s.tnext2[s.nextTask.val]
  tmpc : ∃ saved : MicroAddr, saved.page = s.mpc.page ∧ t.tmpc = s.tmpc.set s.curTask.val saved
  tnext2 : ∃ saved, t.tnext2 = s.tnext2.set s.curTask.val saved

/-- A committed switch, with the activate callback, from a state where steps 5 to 8 of an instruction have led. -/
theorem switches_of_threads {s u : State} (before : Threads s u) (page : s.nextPc.page = s.mpc.page)
    (other : u.curTask ≠ u.nextTask) : Switches s (callActivate (switchTo u.nextTask u)) := by
  have kept := callActivate_threads (switchTo u.nextTask u)
  rw [switchTo_eq other] at kept ⊢
  obtain ⟨-, -, nextPc, next2, tmpc, tnext2, curTask, nextTask⟩ := kept
  simp only [before.curTask, before.nextTask, before.tmpc, before.tnext2, before.nextPc] at *
  exact ⟨other, curTask, nextTask, nextPc, next2, ⟨_, page, tmpc⟩, ⟨_, tnext2⟩⟩

/-- What an instruction does to the tasks, for every state and every collaborator. -/
theorem runMicro_tasks (m : Micro) (s : State) : Stays s (runMicro m s) ∨ Switches s (runMicro m s) := by
  rcases runMicro_cases m s with ⟨-, e⟩ | ⟨-, -, e⟩ | ⟨-, -, e⟩
  · rw [e]
    exact .inl ⟨rfl, rfl, rfl, .inl rfl⟩
  · rw [e]
    exact .inl ⟨rfl, rfl, rfl, .inl rfl⟩
  · have before := beforeSwitch_threads m (advance m.next (loadMir m s))
    rw [e, executeSteps_eq]
    generalize beforeSwitch m (advance m.next (loadMir m s)) = u at before
    have page : u.nextPc.page = (advance m.next (loadMir m s)).nextPc.page := congrArg MicroAddr.page before.nextPc
    rcases resolveSwitch_cases u with ⟨-, r⟩ | ⟨-, -, r⟩ | ⟨-, other, r⟩ <;> rw [r]
    · exact .inl ⟨before.curTask, before.tmpc, before.tnext2, .inr page⟩
    · exact .inl ⟨before.curTask, before.tmpc, before.tnext2, .inr page⟩
    · exact .inr { switches_of_threads before rfl other with }

/-- No save area but the running task's is written. -/
theorem runMicro_saveArea (m : Micro) {s : State} {k : Task} (other : k ≠ s.curTask) :
    (runMicro m s).tmpc[k.val] = s.tmpc[k.val] ∧ (runMicro m s).tnext2[k.val] = s.tnext2[k.val] := by
  have apart : s.curTask.val ≠ k.val := Fin.val_ne_of_ne other.symm
  rcases runMicro_tasks m s with stays | switches
  · rw [stays.tmpc, stays.tnext2]
    exact ⟨rfl, rfl⟩
  · obtain ⟨pc, -, tmpc⟩ := switches.tmpc
    obtain ⟨modifier, tnext2⟩ := switches.tnext2
    rw [tmpc, tnext2]
    exact ⟨Vector.getElem_set_ne _ _ apart, Vector.getElem_set_ne _ _ apart⟩

/-- Settles O26: other save areas are untouched, and a switch back restores what the switch away saved. -/
theorem switchedTaskResumesWhereItStopped : Obligations.SwitchedTaskResumesWhereItStopped := by
  refine ⟨fun i s t k run other => ?_, fun s u k away other tmpc tnext2 => ?_⟩
  · rw [exec_eq] at run
    obtain rfl := Host.Outcome.next.inj run
    exact runMicro_saveArea (microOf i) other
  · rw [switchTo_eq other]
    rw [switchTo_eq away.symm] at tmpc tnext2
    exact ⟨rfl, tmpc.trans (Vector.getElem_set_self ..), tnext2.trans (Vector.getElem_set_self ..)⟩

/-- Settles O27: an instruction that leaves another task running is one that switches. -/
theorem onlyTheSwitchChangesTheTask : Obligations.OnlyTheSwitchChangesTheTask := by
  intro i s t run changed
  rw [exec_eq] at run
  obtain rfl := Host.Outcome.next.inj run
  rcases runMicro_tasks (microOf i) s with stays | switches
  · exact absurd stays.curTask changed
  · exact ⟨switches.curTask, switches.nextTask, switches.nextPc, switches.next2⟩

/-- Settles O42: the accounting and the tick keep NEXTPC, the fetch stays in its page, and so does the advance. -/
theorem pageIsFixedWhileATaskRuns : Obligations.PageIsFixedWhileATaskRuns := by
  intro s t run same
  have before := beforeFetch_threads s
  have page : (beforeFetch s).nextPc.page = s.nextPc.page := congrArg MicroAddr.page before.nextPc
  rcases microcycle_cases s with ⟨-, e⟩ | ⟨-, -, e⟩ | ⟨-, -, e⟩ <;> rw [e] at run
  · obtain rfl := Host.Outcome.next.inj run
    exact page
  · cases run
  · obtain rfl := Host.Outcome.next.inj run
    rcases runMicro_tasks _ (fetch (beforeFetch s)) with stays | switches
    · exact (stays.page.elim id id).trans page
    · exact absurd (before.curTask.trans (same.symm.trans switches.curTask)) switches.other

/-! ### Step 8 -/

/-- Settles O29: the branches of the two commits. -/
theorem commitLoadsLAndT : Obligations.CommitLoadsLAndT := by
  intro m s running
  rw [commit, unlessFatal_running running]
  cases lBit : m.l <;> cases tBit : m.t <;> simp [commitL, commitT, isRamTask_iff]

/-! ### A stalled microcycle -/

/-- Settles O21: with no tick hook the accounting and the fetch stand before the decode, and a stalled word stops there. -/
theorem stalledMicrocycleOnlyTakesTime : Obligations.StalledMicrocycleOnlyTakesTime := by
  intro s w noTick running inside word stalled
  have cycle := microcycle_cases s
  rw [beforeFetch_of_no_tick noTick] at cycle
  rcases cycle with ⟨halted, -⟩ | ⟨-, outside, -⟩ | ⟨-, -, runs⟩
  · exact absurd running halted
  · exact absurd inside (Bool.eq_false_iff.mp outside)
  · have fetched : ucRead (account s) (fetchAddress (account s)).toNat = w := word.symm
    rw [runs, fetched, runMicro_of_stalled (s := fetch (account s)) running stalled, loadMir_decodeMicro]
    rfl

end Sys2Proof.Machine
end

section
/-! The family of spec/44_engine.md section 2, continued: the steps of a microinstruction in closed form, and from them an
undisturbed one from decode to the task switch (R191). -/

namespace Sys2Proof.Machine

/-! ### Step 6 in closed form -/

/-- The report of an undefined ALU code (R138, R139). -/
def aluReports (code : BitVec 4) : List AnomalyReport :=
  if isUndefinedCode code then [.undefinedAluFunction code] else []

/-- The report of a WRTRAM that has no target (R109). -/
def wrtramReports (s : State) : List AnomalyReport :=
  if s.wrtramPend = true ∧ wrtramTarget s.cfg s.cramAddr = none then [.wrtramIgnored s.cramAddr] else []

/-- The store after a WRTRAM pending in a state whose ALU holds a given word (R109). -/
def wrtramStore (v : Word) (s : State) : Memory 32 :=
  if s.wrtramPend then
    match wrtramTarget s.cfg s.cramAddr with
    | some a => Memory.write s.store a ((s.l ++ v) ^^^ s.cfg.ucInv)
    | none => s.store
  else s.store

theorem coreStore_eq (m : Micro) (s : State) : coreStore m s = wrtramStore (coreAlu m s).result s := rfl

theorem coreReports_eq (m : Micro) (s : State) :
    coreReports m s = rdramReports s ++ aluReports m.aluf ++ wrtramReports s := rfl

theorem entries_append (s : State) (x y : List AnomalyReport) : entries s (x ++ y) = entries s x ++ entries s y :=
  List.map_append

theorem aluStep_eq (code : BitVec 4) (s : State) :
    aluStep code s =
      { latchAlu (alu s.cfg s.bus s.t code s.skip) s with log := s.log ++ entries s (aluReports code) } := by
  unfold aluStep
  cases undefined : isUndefinedCode code with
  | true =>
    simp only [undefined, if_true, aluReports]
    rfl
  | false =>
    simp only [undefined, Bool.false_eq_true, if_false, aluReports, entries, List.map_nil, List.append_nil]
    rfl

theorem wrtramEffect_eq (s : State) :
    wrtramEffect s =
      { s with
        wrtramPend := false
        store := wrtramStore s.alu s
        log := s.log ++ entries s (wrtramReports s) } := by
  cases pending : s.wrtramPend with
  | false =>
    have same : s = { s with wrtramPend := false } := by rw [← pending]
    rw [wrtramEffect_idle pending]
    simpa [wrtramStore, wrtramReports, entries, pending] using same
  | true =>
    cases target : wrtramTarget s.cfg s.cramAddr with
    | some a =>
      rw [wrtramEffect_hit pending target]
      simp [wrtramStore, wrtramReports, entries, pending, target, wrtramData]
    | none =>
      rw [wrtramEffect_miss pending target]
      simp [wrtramStore, wrtramReports, entries, pending, target, logReport]

/-- Step 6 on any running state: the ALU's outputs, a pending WRTRAM answered with this cycle's result, and their reports. -/
theorem aluAndWrtram_eq (m : Micro) {s : State} (running : s.fatal = none) :
    aluAndWrtram m s =
      { latchAlu (alu s.cfg s.bus s.t m.aluf s.skip) s with
        wrtramPend := false
        store := wrtramStore (alu s.cfg s.bus s.t m.aluf s.skip).result s
        log := s.log ++ entries s (aluReports m.aluf ++ wrtramReports s) } := by
  rw [aluAndWrtram, unlessFatal_running running, wrtramEffect_eq, aluStep_eq, entries_append, ← List.append_assoc]
  rfl

/-! ### The F1 slots where no collaborator acts -/

/-- The early F1 call of a microinstruction whose slot no collaborator acts in: TASK's sample, or nothing. -/
theorem callF1_early_eq {m : Micro} {s : State} (running : s.fatal = none)
    (slot : isCoreOrInert (f1Slot s.cfg .early s.curTask m.f1) = true) (request : m.f1 = f1Task → s.wakeup ≠ 0#16) :
    callF1 .early m.f1 s = { s with nnTask := coreNnTask m s } := by
  rw [callF1_running running]
  by_cases task : m.f1 = f1Task
  · obtain ⟨k, highest⟩ := exists_highestRequester (request task)
    rw [task, f1Slot_task, coreNnTask, if_pos task, highest]
    exact taskFunction_early_of_request highest
  · have inert : isInert (f1Slot s.cfg .early s.curTask m.f1) = true := by
      rcases f1Slot_early_cases s.cfg s.curTask m.f1 with ⟨isTask, -⟩ | ⟨-, ⟨h, e⟩ | e | e⟩
      · exact absurd isTask task
      · rw [e] at slot ⊢
        exact slot
      · rw [e] at slot
        cases slot
      · rw [e]
        rfl
    rw [runSlot_of_inert inert, coreNnTask, if_neg task]

/-- The late F1 call of such a slot on a state with no request pending: the request its code flags, or nothing. -/
theorem runSlot_late_eq {fn : SlotFn} (slot : isCoreOrInert fn = true) (field : Field) (code : Nat) {s : State}
    (rdram : s.rdramPend = false) (wrtram : s.wrtramPend = false) :
    runSlot fn field .late code s =
      { s with
        rdramPend := decide (fn = .flagRdram)
        wrtramPend := decide (fn = .flagWrtram)
        cramAddr := if decide (fn = .flagRdram) || decide (fn = .flagWrtram) then s.alu else s.cramAddr } := by
  have same : s = { s with rdramPend := false, wrtramPend := false } := by
    cases s
    cases rdram
    cases wrtram
    rfl
  cases fn with
  | taskFunction => exact same
  | flagRdram => exact congrArg flagRdram same
  | flagWrtram => exact congrArg flagWrtram same
  | noEffect => exact same
  | registered h =>
    obtain rfl : h = inertHandler := of_decide_eq_true slot
    exact same
  | stub => cases slot

/-! ### An undisturbed microinstruction -/

/-- The state after steps 3 to 6 of an undisturbed microinstruction, with the ALU's outcome and the bus it is computed on. -/
def afterAlu (m : Micro) (out : AluOutcome) (bus : Word) (s : State) : State :=
  { latchAlu out (advance m.next (loadMir m s)) with
    bus := bus
    rdramPend := false
    wrtramPend := false
    store := wrtramStore out.result s
    log := s.log ++ entries s (coreReports m s)
    nnTask := coreNnTask m s }

theorem afterAlu_eq {m : Micro} {s : State} (h : Undisturbed m s) :
    aluAndWrtram m (earlyPhase m (formBus m (advance m.next (loadMir m s)))) =
      afterAlu m (coreAlu m s) (coreBus m s) s := by
  let u := advance m.next (loadMir m s)
  let b : State := { u with bus := coreBus m s, rdramPend := false, log := s.log ++ entries s (rdramReports s) }
  have bus : formBus m u = b := formBus_eq m u
  have early : earlyPhase m b = { b with nnTask := coreNnTask m s } := by
    rw [earlyPhase, callF2_of_inert (s := b) h.f2Early, callBs_of_inert (s := b) h.bsEarly]
    exact callF1_early_eq (s := b) h.running h.f1Early h.request
  rw [bus, early, aluAndWrtram_eq m (s := { b with nnTask := coreNnTask m s }) h.running]
  have log : s.log ++ entries s (rdramReports s) ++ entries s (aluReports m.aluf ++ wrtramReports s) =
      s.log ++ entries s (coreReports m s) := by
    rw [coreReports_eq, List.append_assoc, List.append_assoc, ← entries_append]
  rw [afterAlu, ← log]
  rfl

/-- That state after step 7: the F1 slot has flagged a request, or not. -/
def afterLate (m : Micro) (out : AluOutcome) (bus : Word) (s : State) : State :=
  { afterAlu m out bus s with
    rdramPend := flagsLate .flagRdram m s
    wrtramPend := flagsLate .flagWrtram m s
    cramAddr := if flagsLate .flagRdram m s || flagsLate .flagWrtram m s then out.result else s.cramAddr }

theorem afterLate_fatal (m : Micro) (out : AluOutcome) (bus : Word) (s : State) :
    (afterLate m out bus s).fatal = s.fatal := by
  simp only [afterLate, afterAlu, latchAlu_fatal, advance_fatal, loadMir_fatal]

theorem afterLate_eq {m : Micro} {s : State} (h : Undisturbed m s) (out : AluOutcome) (bus : Word) :
    latePhase m (afterAlu m out bus s) = afterLate m out bus s := by
  rw [latePhase_of_undisturbed (u := afterAlu m out bus s) h rfl rfl h.running]
  exact runSlot_late_eq h.f1Late .f1 m.f1.toNat rfl rfl

/-- Step 8 on a running state. -/
theorem commit_eq (m : Micro) {s : State} (running : s.fatal = none) :
    commit m s =
      { s with
        l := if m.l then s.alu else s.l
        laluc0 := if m.l then s.aluc0 else s.laluc0
        m := if m.l && isRamTask s.cfg s.curTask then s.alu else s.m
        t := if m.t then (if s.tself then s.alu else s.bus) else s.t } := by
  rw [commit, unlessFatal_running running]
  cases lBit : m.l <;> cases tBit : m.t <;> simp [commitL, commitT]

/-- That state after step 8: L, LALUC0, M and T are loaded, or not. -/
def afterCommit (m : Micro) (out : AluOutcome) (bus : Word) (s : State) : State :=
  { afterLate m out bus s with
    l := if m.l then out.result else s.l
    laluc0 := if m.l then out.carryOut else s.laluc0
    m := if m.l && isRamTask s.cfg s.curTask then out.result else s.m
    t := if m.t then (if out.tsel then out.result else bus) else s.t }

theorem afterCommit_eq {m : Micro} {s : State} (h : Undisturbed m s) :
    beforeSwitch m (advance m.next (loadMir m s)) = afterCommit m (coreAlu m s) (coreBus m s) s := by
  rw [beforeSwitch, afterAlu_eq h, afterLate_eq h, commit_eq m ((afterLate_fatal ..).trans h.running)]
  generalize coreAlu m s = out, coreBus m s = bus
  simp only [afterCommit, afterLate, afterAlu, latchAlu, advance, loadMir]
  rfl

/-- What step 9 reads of that state. -/
theorem afterCommit_switch (m : Micro) (out : AluOutcome) (bus : Word) (s : State) :
    (afterCommit m out bus s).fatal = s.fatal ∧ (afterCommit m out bus s).cfg = s.cfg ∧
    (afterCommit m out bus s).curTask = s.curTask ∧ (afterCommit m out bus s).nextTask = s.nextTask := by
  simp only [afterCommit, afterLate, afterAlu, latchAlu, advance, loadMir, and_self]

theorem callActivate_of_inert {s : State} (inert : ∀ h, activateOf s.cfg s.curTask = some h → h = inertHandler) :
    callActivate s = s := by
  unfold callActivate
  split
  · rename_i h found
    rw [inert h found, callHandler_inert]
  · rfl

/-- Step 9 on a running state when the activate callback of the next task is inert, or absent. -/
theorem resolveSwitch_of_inert {s : State} (running : s.fatal = none)
    (inert : ∀ h, activateOf s.cfg s.nextTask = some h → h = inertHandler) :
    resolveSwitch s = if s.curTask = s.nextTask then { s with nextTask := s.nnTask } else switchTo s.nextTask s := by
  split_ifs with same
  · exact resolveSwitch_stay running same
  · rw [resolveSwitch_switch running same]
    exact callActivate_of_inert inert

/-- An undisturbed microinstruction leaves the closed form of its steps. -/
theorem runMicro_undisturbed {m : Micro} {s : State} (h : Undisturbed m s) :
    runMicro m s = undisturbedResult m s := by
  rw [runMicro_of_not_stalled h.running h.notStalled, executeSteps_eq, afterCommit_eq h]
  simp only [undisturbedResult, coreStore_eq]
  generalize coreAlu m s = out, coreBus m s = bus
  obtain ⟨fatal, cfg, curTask, nextTask⟩ := afterCommit_switch m out bus s
  rw [resolveSwitch_of_inert (fatal.trans h.running) (by rw [cfg, nextTask]; exact h.activate), curTask, nextTask]
  by_cases same : s.curTask = s.nextTask
  · simp only [← same, if_true, ne_eq, not_true, decide_false, Bool.false_eq_true, if_false]
    simp only [afterCommit, afterLate, afterAlu, latchAlu, advance, loadMir, entries]
  · rw [switchTo_eq (by rwa [curTask])]
    simp only [ne_eq, same, not_false_eq_true, decide_true, if_true, if_false]
    simp only [afterCommit, afterLate, afterAlu, latchAlu, advance, loadMir, entries]

/-- Settles O19: an instruction is its microinstruction. -/
theorem undisturbedInstructionCompletes : Obligations.UndisturbedInstructionCompletes :=
  fun i s h => (exec_eq i s).trans (congrArg _ (runMicro_undisturbed h))

/-! ### The timeline of a switch -/

/-- Settles O28: the closed form of TASK, and then that of the instruction in its delay slot. -/
theorem taskSwitchComesOneInstructionLater : Obligations.TaskSwitchComesOneInstructionLater := by
  intro i j s b next candidate task noTask highest other first second
  have sample : coreNnTask (microOf i) s = b := by rw [coreNnTask, if_pos task, highest, Option.getD_some]
  have s1 : exec i s = .next (undisturbedResult (microOf i) s) := undisturbedInstructionCompletes i s first
  have s2 := undisturbedInstructionCompletes j _ second
  refine ⟨_, _, s1, ?_, ?_, s2, ?_⟩
  · exact next
  · simp [undisturbedResult, next, sample]
  · have cur : (undisturbedResult (microOf i) s).curTask = s.curTask := next
    have nxt : (undisturbedResult (microOf i) s).nextTask = b := by simp [undisturbedResult, next, sample]
    have nn : (undisturbedResult (microOf i) s).nnTask = b := sample
    have tm : (undisturbedResult (microOf i) s).tmpc = s.tmpc := by simp [undisturbedResult, next]
    have tn : (undisturbedResult (microOf i) s).tnext2 = s.tnext2 := by simp [undisturbedResult, next]
    generalize undisturbedResult (microOf i) s = u at *
    have ne : s.curTask ≠ b := other.symm
    simp [undisturbedResult, coreNnTask, noTask, cur, nxt, nn, tm, tn, ne, fetchAddress]

end Sys2Proof.Machine
end

section
/-! The family of spec/42_dispatch.md, continued: the order in which the early handlers act (R153, R272), and an instruction whose
slots all answer, whatever their handlers do (R150, R154). -/

namespace Sys2Proof.Machine

/-! ### The order of the early phase -/

theorem latePhase_of_inert {m : Micro} {s : State} (bs : isInert (bsSlot s.cfg .late s.curTask m.bs) = true)
    (f1 : isInert (f1Slot s.cfg .late s.curTask m.f1) = true)
    (f2 : isInert (f2Slot s.cfg .late s.curTask m.f2) = true) : latePhase m s = s := by
  rw [latePhase, callBs_of_inert bs, callF1_of_inert f1, callF2_of_inert f2]

/-- Step 9 with an inert activate callback leaves the datapath as it is. -/
theorem resolveSwitch_datapath {s : State} (running : s.fatal = none)
    (inert : ∀ h, activateOf s.cfg s.nextTask = some h → h = inertHandler) :
    (resolveSwitch s).fatal = none ∧ (resolveSwitch s).rsel = s.rsel ∧ (resolveSwitch s).bus = s.bus ∧
      (resolveSwitch s).alu = s.alu := by
  rw [resolveSwitch_of_inert running inert]
  split_ifs
  · exact ⟨running, rfl, rfl, rfl⟩
  · exact ⟨running, rfl, rfl, rfl⟩

/-- The early phase when F2 rewrites the register select and BS reads R: the select is written first. -/
theorem earlyPhase_select_then_read {m : Micro} {s : State} {v : Word} (running : s.fatal = none)
    (f2 : f2Slot s.cfg .early s.curTask m.f2 = .registered (oneAction (.setRsel (.imm v))))
    (bs : bsSlot s.cfg .early s.curTask m.bs = .registered (oneAction (.driveBus .r)))
    (f1 : isInert (f1Slot s.cfg .early s.curTask m.f1) = true) :
    earlyPhase m s = { s with rsel := v.setWidth 5, bus := s.bus &&& readR s (v.setWidth 5) } := by
  have select : callF2 .early m.f2 s = { s with rsel := v.setWidth 5 } := by
    rw [callF2_running running, f2]
    rfl
  have read : callBs .early m.bs { s with rsel := v.setWidth 5 } =
      { s with rsel := v.setWidth 5, bus := s.bus &&& readR s (v.setWidth 5) } := by
    rw [callBs_running (s := { s with rsel := v.setWidth 5 }) running, bs]
    rfl
  rw [earlyPhase, select, read]
  exact callF1_of_inert f1

/-- What step 6 leaves for the steps after it. -/
theorem aluAndWrtram_datapath (m : Micro) {s : State} (running : s.fatal = none) :
    (aluAndWrtram m s).fatal = none ∧ (aluAndWrtram m s).rsel = s.rsel ∧ (aluAndWrtram m s).bus = s.bus ∧
      (aluAndWrtram m s).alu = (alu s.cfg s.bus s.t m.aluf s.skip).result := by
  rw [aluAndWrtram_eq m running]
  exact ⟨running, rfl, rfl, rfl⟩

theorem commit_datapath (m : Micro) {s : State} (running : s.fatal = none) :
    (commit m s).fatal = none ∧ (commit m s).rsel = s.rsel ∧ (commit m s).bus = s.bus ∧
      (commit m s).alu = s.alu := by
  rw [commit_eq m running]
  exact ⟨running, rfl, rfl, rfl⟩

/-- Steps 6 to 9 with inert late slots and activate callback: the bus and the select stay, the ALU is computed on them. -/
theorem steps6To9_datapath {m : Micro} {s : State} (running : s.fatal = none)
    (bs : isInert (bsSlot s.cfg .late s.curTask m.bs) = true) (f1 : isInert (f1Slot s.cfg .late s.curTask m.f1) = true)
    (f2 : isInert (f2Slot s.cfg .late s.curTask m.f2) = true)
    (activate : ∀ h, activateOf s.cfg s.nextTask = some h → h = inertHandler) :
    ∃ t, resolveSwitch (commit m (latePhase m (aluAndWrtram m s))) = t ∧ t.fatal = none ∧ t.rsel = s.rsel ∧
      t.bus = s.bus ∧ t.alu = (alu s.cfg s.bus s.t m.aluf s.skip).result := by
  have step6 := aluAndWrtram_threads m s
  obtain ⟨fatal6, rsel6, bus6, alu6⟩ := aluAndWrtram_datapath m running
  have late : latePhase m (aluAndWrtram m s) = aluAndWrtram m s := by
    apply latePhase_of_inert <;> rw [step6.quiet.cfg, step6.curTask] <;> assumption
  rw [late]
  have step8 := commit_threads m (aluAndWrtram m s)
  obtain ⟨fatal8, rsel8, bus8, alu8⟩ := commit_datapath m fatal6
  have callback : ∀ h, activateOf (commit m (aluAndWrtram m s)).cfg (commit m (aluAndWrtram m s)).nextTask = some h →
      h = inertHandler := by
    rw [step8.quiet.cfg, step8.nextTask, step6.quiet.cfg, step6.nextTask]
    exact activate
  obtain ⟨fatal9, rsel9, bus9, alu9⟩ := resolveSwitch_datapath fatal8 callback
  exact ⟨_, rfl, fatal9, rsel9.trans (rsel8.trans rsel6), bus9.trans (bus8.trans bus6), alu9.trans (alu8.trans alu6)⟩

/-- The part of the context the early phase starts from, after the bus is formed. -/
theorem formBus_datapath (m : Micro) (s : State) :
    (formBus m s).bus = coreBus m s ∧ (formBus m s).r = s.r ∧ (formBus m s).t = s.t ∧
      (formBus m s).skip = s.skip := by
  rw [formBus_eq]
  exact ⟨rfl, rfl, rfl, rfl⟩

/-- Settles O23: the early phase writes the select and then reads with it, and nothing after step 6 touches bus or ALU. -/
theorem bsReadsWithTheRselOfF2 : Obligations.BsReadsWithTheRselOfF2 := by
  intro i s v running goes f2 bs f1 bsLate f1Late f2Late activate
  rw [exec_eq, runMicro_of_not_stalled running goes]
  generalize microOf i = m at *
  obtain ⟨bus, r, t, skip⟩ := formBus_datapath m (advance m.next (loadMir m s))
  have fatal := (formBus_answers m (advance m.next (loadMir m s))).2.trans running
  have before := formBus_threads m (advance m.next (loadMir m s))
  have cfg : (formBus m (advance m.next (loadMir m s))).cfg = s.cfg := before.quiet.cfg
  have curTask : (formBus m (advance m.next (loadMir m s))).curTask = s.curTask := before.curTask
  have nextTask : (formBus m (advance m.next (loadMir m s))).nextTask = s.nextTask := before.nextTask
  rw [executeSteps]
  generalize formBus m (advance m.next (loadMir m s)) = b at *
  rw [← cfg, ← curTask] at f2 bs f1 bsLate f1Late f2Late
  rw [← cfg, ← nextTask] at activate
  rw [earlyPhase_select_then_read fatal f2 bs f1]
  obtain ⟨w, result, fatal9, rsel9, bus9, alu9⟩ :=
    steps6To9_datapath (s := { b with rsel := v.setWidth 5, bus := b.bus &&& readR b (v.setWidth 5) })
      fatal bsLate f1Late f2Late activate
  have readsR : readR b (v.setWidth 5) = readR s (v.setWidth 5) := by
    rw [readR, r]
    rfl
  refine ⟨w, congrArg _ result, fatal9, rsel9, ?_, ?_⟩
  · rw [bus9, readsR, bus]
    rfl
  · rw [alu9, bus9, cfg, t, skip]
    rfl

/-! ### Slots that answer -/

theorem runLines_answers {lines : List ScriptLine} (answers : neverFatal (.script lines) = true) (s : State) :
    ∃ t, runLines lines s = .ok t := by
  induction lines generalizing s with
  | nil => exact ⟨s, rfl⟩
  | cons line rest ih =>
    obtain ⟨first, later⟩ : _ ∧ neverFatal (.script rest) = true := by
      simpa only [neverFatal, List.all_cons, Bool.and_eq_true] using answers
    unfold runLines
    split_ifs
    · cases effect : line.effect with
      | act a => exact ih later _
      | fail reason => simp [effect] at first
      | callExecute => simp [effect] at first
    · exact ih later s

/-- A described handler with no fatal line keeps the hardware running. -/
theorem callHandler_answers {h : Handler} (answers : neverFatal h = true) (arg : Option Int) (s : State) :
    (callHandler h arg s).fatal = s.fatal := by
  cases h with
  | external id => cases answers
  | script lines =>
    obtain ⟨t, returned⟩ := runLines_answers answers s
    have result : callHandler (.script lines) arg s = t := by
      simp only [callHandler, handlerLines, returned]
    rw [result]
    exact (runLines_spec returned).2.1

theorem runSlot_answers {fn : SlotFn} (answers : slotAnswers fn = true) (field : Field) (phase : Phase) (code : Nat)
    (s : State) : (runSlot fn field phase code s).fatal = s.fatal := by
  cases fn with
  | noEffect => rfl
  | flagRdram => rfl
  | flagWrtram => rfl
  | registered h => exact callHandler_answers answers none s
  | taskFunction => cases answers
  | stub => cases answers

theorem unlessFatal_fatal {f : State → State} {s : State} (h : (f s).fatal = s.fatal) :
    (unlessFatal f s).fatal = s.fatal := by
  rcases unlessFatal_cases f s with ⟨-, e⟩ | ⟨-, e⟩ <;> rw [e]
  exact h

theorem callBs_answers {phase : Phase} {code : BitVec 3} {s : State}
    (answers : slotAnswers (bsSlot s.cfg phase s.curTask code) = true) : (callBs phase code s).fatal = s.fatal :=
  unlessFatal_fatal (runSlot_answers answers ..)

theorem callF1_answers {phase : Phase} {code : BitVec 4} {s : State}
    (answers : slotAnswers (f1Slot s.cfg phase s.curTask code) = true) : (callF1 phase code s).fatal = s.fatal :=
  unlessFatal_fatal (runSlot_answers answers ..)

theorem callF2_answers {phase : Phase} {code : BitVec 4} {s : State}
    (answers : slotAnswers (f2Slot s.cfg phase s.curTask code) = true) : (callF2 phase code s).fatal = s.fatal :=
  unlessFatal_fatal (runSlot_answers answers ..)

/-- A code whose F1 slot answers is not TASK's. -/
theorem ne_f1Task_of_answers {c : Config} {phase : Phase} {k : Task} {code : BitVec 4}
    (answers : slotAnswers (f1Slot c phase k code) = true) : code ≠ f1Task := by
  rintro rfl
  rw [f1Slot_task] at answers
  cases answers

/-- The slots of an instruction in the early phase: F2 and BS answer, and F1 answers or is TASK, with a request that no handler
before it has taken away. -/
structure EarlyAnswers (m : Micro) (s : State) : Prop where
  f2 : slotAnswers (f2Slot s.cfg .early s.curTask m.f2) = true
  bs : slotAnswers (bsSlot s.cfg .early s.curTask m.bs) = true
  f1 : slotAnswers (f1Slot s.cfg .early s.curTask m.f1) = true ∨
    (m.f1 = f1Task ∧ s.wakeup ≠ 0#16 ∧ isInert (f2Slot s.cfg .early s.curTask m.f2) = true ∧
      isInert (bsSlot s.cfg .early s.curTask m.bs) = true)

/-- What an early phase that answers leaves: a running state, TASK's sample, and the rest of the contract. -/
theorem earlyPhase_answers {m : Micro} {s : State} (h : EarlyAnswers m s) (running : s.fatal = none) :
    (earlyPhase m s).fatal = none ∧ (earlyPhase m s).nnTask = coreNnTask m s := by
  rcases h.f1 with f1 | ⟨task, request, f2, bs⟩
  · have f2Kept := callF2_threads .early m.f2 s
    have bsKept := callBs_threads .early m.bs (callF2 .early m.f2 s)
    have f1Kept := (callF1_early_spec m.f1 (callBs .early m.bs (callF2 .early m.f2 s))).2 (ne_f1Task_of_answers f1)
    have nnTask : (earlyPhase m s).nnTask = s.nnTask :=
      f1Kept.nnTask.trans ((callBs_kept ..).nnTask.trans (callF2_kept ..).nnTask)
    refine ⟨?_, nnTask.trans (if_neg (ne_f1Task_of_answers f1)).symm⟩
    rw [earlyPhase, callF1_answers, callBs_answers, callF2_answers h.f2, running]
    · rw [f2Kept.quiet.cfg, f2Kept.curTask]
      exact h.bs
    · rw [bsKept.quiet.cfg, bsKept.curTask, f2Kept.quiet.cfg, f2Kept.curTask]
      exact f1
  · have core : isCoreOrInert (f1Slot s.cfg .early s.curTask m.f1) = true := by
      rw [task, f1Slot_task]
      rfl
    rw [earlyPhase, callF2_of_inert f2, callBs_of_inert bs, callF1_early_eq running core fun _ => request]
    exact ⟨running, rfl⟩

/-- The slots of an instruction in the late phase. -/
structure LateAnswers (m : Micro) (s : State) : Prop where
  bs : slotAnswers (bsSlot s.cfg .late s.curTask m.bs) = true
  f1 : slotAnswers (f1Slot s.cfg .late s.curTask m.f1) = true ∨ m.f1 = f1Task
  f2 : slotAnswers (f2Slot s.cfg .late s.curTask m.f2) = true

/-- A late F1 call that answers leaves the hardware running, and the request its slot flags. -/
theorem callF1_late_answers {m : Micro} {s : State} (running : s.fatal = none) (rdram : s.rdramPend = false)
    (wrtram : s.wrtramPend = false)
    (answers : slotAnswers (f1Slot s.cfg .late s.curTask m.f1) = true ∨ m.f1 = f1Task) :
    (callF1 .late m.f1 s).fatal = none ∧
      controlRam (callF1 .late m.f1 s) =
        (flagsLate .flagRdram m s, flagsLate .flagWrtram m s,
          if flagsLate .flagRdram m s || flagsLate .flagWrtram m s then s.alu else s.cramAddr, s.alu) := by
  unfold flagsLate
  rw [callF1_running running]
  rcases f1Slot_late_cases s.cfg s.curTask m.f1 with ⟨-, e⟩ | ⟨other, ⟨h, e⟩ | e | e | e | e⟩ <;> rw [e] at answers ⊢
  · exact ⟨running, by simp [runSlot, taskFunction, controlRam, rdram, wrtram]⟩
  · have neverFatal := answers.resolve_right other
    have kept := (callHandler_spec h none s).1
    exact ⟨(callHandler_answers neverFatal none s).trans running,
      kept.controlRam_eq.trans (by simp [controlRam, rdram, wrtram])⟩
  · cases answers.resolve_right other
  · exact ⟨running, by simp [runSlot, controlRam, rdram, wrtram]⟩
  · exact ⟨running, by simp [runSlot, controlRam, wrtram]⟩
  · exact ⟨running, by simp [runSlot, controlRam, rdram]⟩

/-- What a late phase that answers leaves: a running state, the request its F1 slot flags, and NNTASK as before. -/
theorem latePhase_answers {m : Micro} {s : State} (h : LateAnswers m s) (running : s.fatal = none)
    (rdram : s.rdramPend = false) (wrtram : s.wrtramPend = false) :
    (latePhase m s).fatal = none ∧ (latePhase m s).nnTask = s.nnTask ∧
      controlRam (latePhase m s) =
        (flagsLate .flagRdram m s, flagsLate .flagWrtram m s,
          if flagsLate .flagRdram m s || flagsLate .flagWrtram m s then s.alu else s.cramAddr, s.alu) := by
  have bsKept := callBs_kept .late m.bs s
  have bsFatal := (callBs_answers h.bs).trans running
  have f1Answers := h.f1
  rw [← bsKept.cfg, ← bsKept.curTask] at f1Answers
  obtain ⟨f1Fatal, f1Requests⟩ :=
    callF1_late_answers bsFatal (bsKept.rdramPend.trans rdram) (bsKept.wrtramPend.trans wrtram) f1Answers
  have f1Kept := callF1_late_spec m.f1 (callBs .late m.bs s)
  have f2Kept := callF2_kept .late m.f2 (callF1 .late m.f1 (callBs .late m.bs s))
  have f2Answers : slotAnswers (f2Slot (callF1 .late m.f1 (callBs .late m.bs s)).cfg .late
      (callF1 .late m.f1 (callBs .late m.bs s)).curTask m.f2) = true := by
    rw [f1Kept.cfg, f1Kept.curTask, bsKept.cfg, bsKept.curTask]
    exact h.f2
  have flags (fn : SlotFn) : flagsLate fn m (callBs .late m.bs s) = flagsLate fn m s := by
    simp only [flagsLate, bsKept.cfg, bsKept.curTask]
  rw [flags, flags, bsKept.alu, bsKept.cramAddr] at f1Requests
  exact ⟨(callF2_answers f2Answers).trans f1Fatal,
    f2Kept.nnTask.trans (f1Kept.nnTask.trans bsKept.nnTask), f2Kept.controlRam_eq.trans f1Requests⟩

theorem EarlyAnswers.congr {m : Micro} {s t : State} (h : EarlyAnswers m s) (cfg : t.cfg = s.cfg)
    (curTask : t.curTask = s.curTask) (wakeup : t.wakeup = s.wakeup) : EarlyAnswers m t := by
  obtain ⟨f2, bs, f1⟩ := h
  rw [← cfg, ← curTask] at f2 bs f1
  exact ⟨f2, bs, wakeup ▸ f1⟩

theorem LateAnswers.congr {m : Micro} {s t : State} (h : LateAnswers m s) (cfg : t.cfg = s.cfg)
    (curTask : t.curTask = s.curTask) : LateAnswers m t := by
  obtain ⟨bs, f1, f2⟩ := h
  rw [← cfg, ← curTask] at bs f1 f2
  exact ⟨bs, f1, f2⟩

/-- The early phase writes nothing outside the contract but NNTASK. -/
theorem earlyPhase_kept (m : Micro) (s : State) :
    ContractKept s { earlyPhase m s with nnTask := (callBs .early m.bs (callF2 .early m.f2 s)).nnTask } :=
  ((callF2_kept .early m.f2 s).trans (callBs_kept .early m.bs _)).trans (callF1_early_spec m.f1 _).1

/-- Steps 5 and 6 of an instruction whose slots answer. -/
theorem throughAlu_answers {m : Micro} {s u : State} (early : EarlyAnswers m s) (running : s.fatal = none)
    (alu : u = aluAndWrtram m (earlyPhase m (formBus m s))) :
    u.fatal = none ∧ u.nnTask = coreNnTask m s ∧ u.rdramPend = false ∧ u.wrtramPend = false ∧
      u.cramAddr = s.cramAddr := by
  obtain ⟨rdram, fatal⟩ := formBus_answers m s
  have sample : coreNnTask m (formBus m s) = coreNnTask m s := by
    rw [formBus_eq]
    rfl
  have wakeup : (formBus m s).wakeup = s.wakeup := by rw [formBus_eq]
  have cram := (earlyPhase_store m s).2.2
  have before := formBus_threads m s
  obtain ⟨earlyFatal, earlySample⟩ :=
    earlyPhase_answers (early.congr before.quiet.cfg before.curTask wakeup) (fatal.trans running)
  have earlyRdram : (earlyPhase m (formBus m s)).rdramPend = false := (earlyPhase_kept m (formBus m s)).rdramPend.trans rdram
  rw [alu, aluAndWrtram_eq m earlyFatal]
  exact ⟨earlyFatal, earlySample.trans sample, earlyRdram, rfl, cram⟩

/-- Steps 5 to 8 of an instruction whose slots answer. -/
theorem beforeSwitch_answers {m : Micro} {s u : State} (early : EarlyAnswers m s) (late : LateAnswers m s)
    (running : s.fatal = none) (steps : u = beforeSwitch m s) :
    u.fatal = none ∧ u.nnTask = coreNnTask m s ∧ u.rdramPend = flagsLate .flagRdram m s ∧
      u.wrtramPend = flagsLate .flagWrtram m s ∧
      u.cramAddr = (if flagsLate .flagRdram m s || flagsLate .flagWrtram m s then u.alu else s.cramAddr) := by
  have threads : Threads s (aluAndWrtram m (earlyPhase m (formBus m s))) :=
    ((formBus_threads m s).trans (earlyPhase_threads m _)).trans (aluAndWrtram_threads m _)
  obtain ⟨fatal6, sample, rdram6, wrtram6, cram6⟩ := throughAlu_answers early running rfl
  rw [beforeSwitch] at steps
  generalize aluAndWrtram m (earlyPhase m (formBus m s)) = w at *
  have flags (fn : SlotFn) : flagsLate fn m w = flagsLate fn m s := by
    simp only [flagsLate, threads.quiet.cfg, threads.curTask]
  obtain ⟨fatal7, sample7, requests⟩ :=
    latePhase_answers (late.congr threads.quiet.cfg threads.curTask) fatal6 rdram6 wrtram6
  have commits := commit_eq m fatal7
  have requests8 : controlRam u = _ := (congrArg controlRam steps).trans ((controlRam_commit ..).trans requests)
  rw [flags, flags, cram6] at requests8
  simp only [controlRam, Prod.mk.injEq] at requests8
  obtain ⟨rdram, wrtram, cram, alu⟩ := requests8
  refine ⟨?_, ?_, rdram, wrtram, cram.trans (by rw [alu])⟩
  · rw [steps, commits]
    exact fatal7
  · rw [steps, commits]
    exact sample7.trans sample

/-- Step 9 when the activate callback answers: the next task runs, and what the steps before it left stays. -/
theorem resolveSwitch_answers {s : State} (running : s.fatal = none)
    (answers : ∀ h, activateOf s.cfg s.nextTask = some h → neverFatal h = true) :
    (resolveSwitch s).fatal = none ∧ (resolveSwitch s).curTask = s.nextTask ∧
      (resolveSwitch s).nnTask = s.nnTask := by
  by_cases same : s.curTask = s.nextTask
  · rw [resolveSwitch_stay running same]
    exact ⟨running, same, rfl⟩
  · have kept := callActivate_kept (switchTo s.nextTask s)
    rw [resolveSwitch_switch running same]
    refine ⟨?_, kept.curTask, kept.nnTask⟩
    unfold callActivate
    split
    · rename_i h found
      exact (callHandler_answers (answers h found) none _).trans running
    · exact running

/-- Settles O20: the slots answer in every phase, so each step leaves a running state, and what the contract withholds from the
handlers is as the core's own steps leave it. -/
theorem answeredInstructionCompletes : Obligations.AnsweredInstructionCompletes := by
  intro i s running goes f2Early f2Late bsEarly bsLate f1Early f1Late activate
  refine ⟨runMicro (microOf i) s, exec_eq i s, ?_⟩
  have mir : (runMicro (microOf i) s).mir = encode i := runMicro_mir (microOf i) running
  have mpc : (runMicro (microOf i) s).mpc = s.mpc := (runMicro_quiet (microOf i) s).mpc
  have early : EarlyAnswers (microOf i) s := ⟨f2Early, bsEarly, f1Early⟩
  have late : LateAnswers (microOf i) s := ⟨bsLate, f1Late, f2Late⟩
  generalize microOf i = m at *
  have threads := beforeSwitch_threads m (advance m.next (loadMir m s))
  obtain ⟨fatal8, sample, rdram, wrtram, cram⟩ :=
    beforeSwitch_answers (s := advance m.next (loadMir m s)) (early.congr rfl rfl rfl) (late.congr rfl rfl) running rfl
  rw [runMicro_of_not_stalled running goes, executeSteps_eq] at mir mpc ⊢
  generalize beforeSwitch m (advance m.next (loadMir m s)) = u at *
  have callback : ∀ h, activateOf u.cfg u.nextTask = some h → neverFatal h = true := by
    rw [threads.quiet.cfg, threads.nextTask]
    exact activate
  obtain ⟨fatal9, curTask, nnTask⟩ := resolveSwitch_answers fatal8 callback
  obtain ⟨rdram9, wrtram9, cram9, alu9⟩ := controlRam_eq_iff.mp (controlRam_resolveSwitch u)
  refine ⟨fatal9, mir, mpc, curTask.trans threads.nextTask, nnTask.trans sample, rdram9.trans rdram, wrtram9.trans wrtram, ?_⟩
  rw [cram9, cram, alu9]
  rfl

end Sys2Proof.Machine
end

section
/-! The families of spec/44_engine.md section 1 and spec/70_reset_and_hazards.md: what one step of the machine can be, and what every
step keeps (R190, R192, R225, R264). -/

namespace Sys2Proof.Machine

/-! ### What a step can be -/

/-- A turn of the loop of `execute`: the loop test fails and the slice ends, or one microcycle runs (R190). -/
inductive Turn (s : State) : State → Prop where
  | ends (stops : sliceMayRun s = false) : Turn s (endSlice s)
  | cycle {t : State} (goes : sliceMayRun s = true) (run : microcycle s = .next t) : Turn s (afterCycle t)

theorem turn_of_sliceStep {s t : State} (h : sliceStep s = .next t) : Turn s t := by
  rcases sliceStep_cases h with ⟨stops, rfl⟩ | ⟨goes, u, run, rfl⟩
  · exact .ends stops
  · exact .cycle goes run

/-- What the host can do between slices, by a call or by a turn of its loop: start a slice and take its first turn, find the
hardware halted, insert, remove, fire an event, or ask for the time to the next one (R190, R206, R215). -/
inductive HostAct (s : State) : State → Prop where
  | slice {t : State} (b : Nat) (running : s.fatal = none) (turn : Turn (beginSlice b s) t) : HostAct s t
  | halted (fatal : s.fatal ≠ none) : HostAct s { s with reply := some (.consumed 0) }
  | insert (d c : Nat) (a : Int) (n : String) :
      HostAct s { insertEvent d c a n s with reply := some (.inserted s.nextId) }
  | remove (id : Nat) : HostAct s { removeEvent id s with reply := some (.removed (isQueued s id)) }
  | fire : HostAct s (fireDue s)
  | ask : HostAct s { s with reply := some (.untilNext (timeUntilNext s)) }

theorem hostAct_of_startExecute {b : Nat} {s t : State} (h : startExecute b s = .next t) : HostAct s t := by
  rcases startExecute_cases h with ⟨fatal, rfl⟩ | ⟨running, turn⟩
  · exact .halted fatal
  · exact .slice b running (turn_of_sliceStep turn)

theorem hostAct_of_hostCall {call : HostCall} {s t : State} (h : hostCall call s = .next t) : HostAct s t := by
  cases call with
  | execute b => exact hostAct_of_startExecute h
  | insert d c a n => exact Host.Outcome.next.inj h ▸ .insert d c a n
  | remove id => exact Host.Outcome.next.inj h ▸ .remove id
  | fireDue => exact Host.Outcome.next.inj h ▸ .fire
  | timeUntilNext => exact Host.Outcome.next.inj h ▸ .ask

theorem hostAct_of_hostLoop {s t : State} (h : hostLoop s = .next t) : HostAct s t := by
  unfold hostLoop at h
  split at h
  · exact Host.Outcome.next.inj h ▸ .fire
  · exact hostAct_of_startExecute h

/-- A step that answers is a turn of the running slice, or an act of the host's, which may take a pending call. -/
theorem step_acts {s t : State} (h : step s = .next t) :
    (s.inSlice = true ∧ Turn s t) ∨ (s.inSlice = false ∧ ∃ calls, HostAct { s with hostCalls := calls } t) := by
  obtain ⟨-, ⟨inside, h⟩ | ⟨outside, call, rest, -, h⟩ | ⟨outside, pending, h⟩⟩ := step_cases h
  · exact .inl ⟨inside, turn_of_sliceStep h⟩
  · exact .inr ⟨outside, rest, hostAct_of_hostCall h⟩
  · exact .inr ⟨outside, s.hostCalls, hostAct_of_hostLoop h⟩

/-! ### The microcycle's charge -/

/-- A state with another micro-PC, as the fetch leaves it (R101). -/
def atMpc (a : MicroAddr) (s : State) : State := { s with mpc := a }

theorem Quiet.atMpc {s t : State} (h : Quiet s t) (a : MicroAddr) : Quiet (atMpc a s) (atMpc a t) :=
  { h with mpc := rfl, timer := fun ok => (h.timer (ok.of_eq rfl le_rfl)).of_eq rfl le_rfl }

/-- A microcycle that answers has charged its cycle; but for the fetched address it keeps what a microinstruction keeps. -/
theorem microcycle_quiet {s t : State} (run : microcycle s = .next t) : Quiet (account s) (atMpc s.mpc t) := by
  have before : Quiet (account s) (atMpc s.mpc (beforeFetch s)) := (beforeFetch_threads s).quiet.atMpc s.mpc
  rcases microcycle_cases s with ⟨-, e⟩ | ⟨-, -, e⟩ | ⟨-, -, e⟩ <;> rw [e] at run
  · exact Host.Outcome.next.inj run ▸ before
  · cases run
  · exact Host.Outcome.next.inj run ▸ before.trans ((runMicro_quiet _ (fetch (beforeFetch s))).atMpc s.mpc)

/-- Settles O43: nothing of a microcycle but its accounting touches NOW, REMAIN and TASK_NS. -/
theorem everyMicrocycleIsCharged : Obligations.EveryMicrocycleIsCharged := by
  intro s t run
  have quiet := microcycle_quiet run
  have taskNs : t.taskNs = (account s).taskNs := quiet.taskNs
  refine ⟨quiet.now, quiet.remain, fun k => ?_⟩
  rw [taskNs]
  by_cases running : k = s.curTask
  · subst running
    simp [account]
  · have apart : s.curTask.val ≠ k.val := Fin.val_ne_of_ne (Ne.symm running)
    simp [account, running, Vector.getElem_set_ne _ _ apart]

/-! ### The configuration, time and the fatal state -/

@[simp] theorem afterCycle_cfg (t : State) : (afterCycle t).cfg = t.cfg := by
  rcases afterCycle_cases t with ⟨-, e⟩ | ⟨-, e⟩ <;> rw [e]
  rfl

@[simp] theorem afterCycle_now (t : State) : (afterCycle t).now = t.now := by
  rcases afterCycle_cases t with ⟨-, e⟩ | ⟨-, e⟩ <;> rw [e]
  rfl

@[simp] theorem afterCycle_taskNs (t : State) : (afterCycle t).taskNs = t.taskNs := by
  rcases afterCycle_cases t with ⟨-, e⟩ | ⟨-, e⟩ <;> rw [e]
  rfl

/-- Firing an event keeps the contract; the reply, the host's own, is new. -/
theorem fireDue_kept (s : State) : ContractKept s { fireDue s with reply := s.reply } := by
  cases due : dueEvent s with
  | none =>
    rw [fireDue_idle due]
    exact .refl s
  | some e =>
    rw [fireDue_due due]
    exact { (runEvent_contract e s).1 with reply := rfl }

theorem Turn.cfg {s t : State} (h : Turn s t) : t.cfg = s.cfg := by
  cases h with
  | ends stops => rfl
  | cycle goes run => exact (afterCycle_cfg _).trans (microcycle_quiet run).cfg

theorem HostAct.cfg {s t : State} (h : HostAct s t) : t.cfg = s.cfg := by
  cases h with
  | slice b running turn => exact turn.cfg
  | halted fatal => rfl
  | insert d c a n => rfl
  | remove id => rfl
  | fire => exact (fireDue_kept s).cfg
  | ask => rfl

/-- Settles O12: no turn of a slice and no act of the host's writes the configuration. -/
theorem stepNeverWritesTheConfiguration : Obligations.StepNeverWritesTheConfiguration := by
  intro s s' h
  rcases step_acts h with ⟨-, turn⟩ | ⟨-, calls, act⟩
  · exact turn.cfg
  · exact act.cfg

/-- NOW and TASK_NS are as before, or one cycle is charged to both, in TASK_NS to the running task (R192). -/
def Charged (s t : State) : Prop :=
  (t.now = s.now ∧ t.taskNs = s.taskNs) ∨
    (t.now = s.now + s.cfg.cycleNs ∧
      t.taskNs = s.taskNs.set s.curTask.val (s.taskNs[s.curTask.val] + s.cfg.cycleNs))

theorem Turn.charged {s t : State} (h : Turn s t) : Charged s t := by
  cases h with
  | ends stops => exact .inl ⟨rfl, rfl⟩
  | cycle goes run =>
    have quiet := microcycle_quiet run
    exact .inr ⟨(afterCycle_now _).trans quiet.now, (afterCycle_taskNs _).trans quiet.taskNs⟩

theorem HostAct.charged {s t : State} (h : HostAct s t) : Charged s t := by
  cases h with
  | slice b running turn => exact turn.charged
  | halted fatal => exact .inl ⟨rfl, rfl⟩
  | insert d c a n => exact .inl ⟨rfl, rfl⟩
  | remove id => exact .inl ⟨rfl, rfl⟩
  | fire => exact .inl ⟨(fireDue_kept s).now, (fireDue_kept s).taskNs⟩
  | ask => exact .inl ⟨rfl, rfl⟩

theorem step_charged {s t : State} (h : step s = .next t) : Charged s t := by
  rcases step_acts h with ⟨-, turn⟩ | ⟨-, calls, act⟩
  · exact turn.charged
  · exact act.charged

/-- Settles O45: a charge only adds. -/
theorem timeNeverGoesBack : Obligations.TimeNeverGoesBack := by
  intro s s' h
  rcases step_charged h with ⟨now, -⟩ | ⟨now, -⟩ <;> omega

/-- Adding to one entry adds as much to the sum. -/
theorem sum_set_add {n : Nat} (v : Vector Nat n) (i : Nat) (hi : i < n) (c : Nat) :
    (v.set i (v[i] + c)).toList.sum = v.toList.sum + c := by
  have whole := List.sum_take_add_sum_drop v.toList i
  have split : v.toList.drop i = v[i] :: v.toList.drop (i + 1) := by
    rw [List.drop_eq_getElem_cons (by simpa using hi), Vector.getElem_toList]
  rw [Vector.toList_set, List.set_eq_take_append_cons_drop, if_pos (by simpa using hi), List.sum_append, List.sum_cons,
    ← whole, split, List.sum_cons]
  omega

/-- Settles O44: reset has neither time, and a charge adds the same to both. -/
theorem taskTimesAddUpToNow : Obligations.TaskTimesAddUpToNow := by
  refine ⟨by decide, fun s s' h total => ?_⟩
  rcases step_charged h with ⟨now, taskNs⟩ | ⟨now, taskNs⟩
  · rw [totalTaskNs, taskNs, now, ← total, totalTaskNs]
  · rw [totalTaskNs, taskNs, now, ← total, totalTaskNs, sum_set_add]

/-! ### The fatal state -/

/-- In the fatal state no slice goes on and no event fires, so no collaborator and no microcycle runs. -/
theorem Turn.fatal {s t : State} {info : FatalInfo} (h : Turn s t) (fatal : s.fatal = some info) :
    t.fatal = some info := by
  cases h with
  | ends stops => exact fatal
  | cycle goes run =>
    obtain ⟨-, -, running⟩ := (sliceMayRun_iff s).mp goes
    simp [fatal] at running

theorem HostAct.fatal {s t : State} {info : FatalInfo} (h : HostAct s t) (fatal : s.fatal = some info) :
    t.fatal = some info := by
  cases h with
  | slice b running turn => simp [fatal] at running
  | halted halts => exact fatal
  | insert d c a n => exact fatal
  | remove id => exact fatal
  | fire =>
    rw [fireDue_idle (dueEvent_of_fatal (by simp [fatal]))]
    exact fatal
  | ask => exact fatal

theorem exec_of_fatal {s : State} (fatal : s.fatal ≠ none) (i : Instr) : exec i s = .next s := by
  rw [exec_eq, runMicro, unlessFatal_halted fatal]

/-- Settles O15: what a step does in the fatal state, by what a step can be. -/
theorem fatalStateIsPermanent : Obligations.FatalStateIsPermanent := by
  refine ⟨rfl, fun s info fatal => ⟨fun s' h => ?_, exec_of_fatal (by simp [fatal])⟩⟩
  rcases step_acts h with ⟨-, turn⟩ | ⟨-, calls, act⟩
  · exact turn.fatal fatal
  · exact act.fatal fatal

theorem startExecute_of_fatal {s : State} (fatal : s.fatal ≠ none) (b : Nat) :
    startExecute b s = .next { s with reply := some (.consumed 0) } :=
  if_pos (Option.isSome_iff_ne_none.mpr fatal)

theorem runSlice_outside {s : State} (outside : s.inSlice = false) (fuel : Nat) : runSlice fuel s = .next s := by
  cases fuel with
  | zero => rfl
  | succ n => simp [runSlice, outside]

/-- The whole call of `execute`, from the turn it takes first. -/
theorem execute_of_startExecute {b : Nat} {s t : State} (h : startExecute b s = .next t) :
    execute b s = runSlice b t := by
  rw [execute, h]

theorem execute_of_fatal {s : State} (fatal : s.fatal ≠ none) (outside : s.inSlice = false) (b : Nat) :
    execute b s = .next { s with reply := some (.consumed 0) } := by
  rw [execute_of_startExecute (startExecute_of_fatal fatal b)]
  exact runSlice_outside (s := { s with reply := some (.consumed 0) }) outside b

theorem step_outside {s : State} (wf : s.cfg.wellFormed = true) (outside : s.inSlice = false)
    (noCalls : s.hostCalls = []) : step s = hostLoop s := by
  simp [step, stepBody, wf, outside, noCalls]

/-- Settles O16: the host's acts in the fatal state. -/
theorem fatalStateRunsNothing : Obligations.FatalStateRunsNothing := by
  intro s info fatal outside wf
  have halted : s.fatal ≠ none := by simp [fatal]
  refine ⟨execute_of_fatal halted outside, fireDue_idle (dueEvent_of_fatal halted), fun noCalls => ?_, fun _ _ _ _ => rfl,
    fun _ => rfl, rfl⟩
  rw [step_outside wf outside noCalls, hostLoop, dueEvent_of_fatal halted]
  exact startExecute_of_fatal halted _

/-- Settles O49: with no call pending the step is a turn of the host loop, which fires the event. -/
theorem dueEventsFireBeforeASlice : Obligations.DueEventsFireBeforeASlice := by
  intro s e wf outside noCalls due
  refine ⟨fireDue s, ?_, rfl, ?_, (fireDue_kept s).inSlice.trans outside⟩
  · rw [step_outside wf outside noCalls, hostLoop, due]
  · rw [fireDue_reply, due, Option.map_some]

end Sys2Proof.Machine
end

section
/-! The families of spec/45_timer.md section 1, spec/40_microcode_store.md section 1 and spec/70_reset_and_hazards.md: the invariant
of a run, which every launch meets (R264) and every step keeps, and from which no step stops (R62, R101, R216). -/

namespace Sys2Proof.Machine

/-! ### An event fired, as a whole -/

/-- The firing of an event keeps what a microinstruction's steps keep: time is put back, and the queue stays in order. -/
theorem runEvent_threads (e : Event) (s : State) : Threads s (runEvent e s) := by
  obtain ⟨quiet, mir, nextPc, next2, tmpc, tnext2, curTask, nextTask⟩ :=
    callHandler_threads (callbackOf s.cfg e.callback) (some e.arg) (callbackState e s)
  have timer (ok : TimerOk s) : TimerOk (runEvent e s) := by
    have tail : TimerOk (callbackState e s) :=
      ⟨ok.sorted.tail, fun f queued => ok.idsBelow f (List.mem_of_mem_tail queued)⟩
    exact (quiet.timer tail).of_eq rfl (Nat.le_refl _)
  exact ⟨{ quiet with now := rfl, timer := timer }, mir, nextPc, next2, tmpc, tnext2, curTask, nextTask⟩

theorem fireDue_threads (s : State) : Threads s { fireDue s with reply := s.reply } := by
  cases due : dueEvent s with
  | none =>
    rw [fireDue_idle due]
    exact .refl s
  | some e =>
    rw [fireDue_due due]
    obtain ⟨quiet, mir, nextPc, next2, tmpc, tnext2, curTask, nextTask⟩ := runEvent_threads e s
    refine ⟨{ quiet with reply := rfl, timer := fun ok => ?_ }, mir, nextPc, next2, tmpc, tnext2, curTask, nextTask⟩
    exact (quiet.timer ok).of_eq rfl (Nat.le_refl _)

theorem TimerOk.fireDue {s : State} (h : TimerOk s) : TimerOk (fireDue s) :=
  ((fireDue_threads s).quiet.timer h).of_eq rfl (Nat.le_refl _)

/-- Settles O50: each of the queue's writers keeps its order. -/
theorem timerKeepsItsOrder : Obligations.TimerKeepsItsOrder := by
  refine fun s ok => ⟨fun d c a n => ok.insertEvent d c a n, fun id => ok.removeEvent id, ok.fireDue, fun i t run => ?_⟩
  rw [exec_eq] at run
  obtain rfl := Host.Outcome.next.inj run
  exact (runMicro_quiet (microOf i) s).timer ok

/-! ### The invariant without configuration, store and loop test -/

/-- The banks exist, every micro-address lies in a page that exists, the queue is in order, and a slice's clock adds up. -/
structure RunOk (s : State) : Prop where
  banks : s.sBanks.length = s.cfg.nsBank
  mpcPage : s.mpc.page < s.cfg.pages
  nextPage : s.nextPc.page < s.cfg.pages
  savedPages : ∀ k : Task, s.tmpc[k.val].page < s.cfg.pages
  timer : TimerOk s
  clock : s.inSlice = true → (s.now : Int) + s.remain = (s.sliceEnd : Int)

theorem MachineInv.runOk {s : State} (h : MachineInv s) : RunOk s :=
  ⟨h.banks, h.mpcPage, h.nextPage, h.savedPages, h.timer, h.sliceClock⟩

/-- What keeps every field that `RunOk` reads, and the queue's order, keeps `RunOk`. -/
theorem RunOk.of_quiet {s t : State} (h : RunOk s) (quiet : Quiet s t) (nextPage : t.nextPc.page < s.cfg.pages)
    (savedPages : ∀ k : Task, t.tmpc[k.val].page < s.cfg.pages) : RunOk t where
  banks := by rw [quiet.banks, quiet.cfg, h.banks]
  mpcPage := by rw [quiet.mpc, quiet.cfg]; exact h.mpcPage
  nextPage := by rwa [quiet.cfg]
  savedPages := by rwa [quiet.cfg]
  timer := quiet.timer h.timer
  clock := by rw [quiet.inSlice, quiet.now, quiet.remain, quiet.sliceEnd]; exact h.clock

theorem RunOk.of_threads {s t : State} (h : RunOk s) (threads : Threads s t) : RunOk t := by
  refine h.of_quiet threads.quiet ?_ ?_
  · rw [threads.nextPc]
    exact h.nextPage
  · rw [threads.tmpc]
    exact h.savedPages

/-- The reply is the host's own field. -/
theorem RunOk.withReply {s : State} (h : RunOk s) (reply : Option HostReply) : RunOk { s with reply := reply } :=
  { h with timer := h.timer.of_eq rfl (Nat.le_refl _) }

/-- The pending calls are the host's own field. -/
theorem RunOk.withHostCalls {s : State} (h : RunOk s) (calls : List HostCall) : RunOk { s with hostCalls := calls } :=
  { h with timer := h.timer.of_eq rfl (Nat.le_refl _) }

/-- An instruction keeps it: its micro-addresses stay in the pages of MPC and of the save areas (R103). -/
theorem RunOk.runMicro {s : State} (h : RunOk s) (m : Micro) : RunOk (runMicro m s) := by
  rcases runMicro_tasks m s with stays | switches
  · refine h.of_quiet (runMicro_quiet m s) ?_ ?_
    · rcases stays.page with page | page <;> rw [page]
      · exact h.nextPage
      · exact h.mpcPage
    · rw [stays.tmpc]
      exact h.savedPages
  · obtain ⟨saved, page, tmpc⟩ := switches.tmpc
    refine h.of_quiet (runMicro_quiet m s) ?_ fun k => ?_
    · rw [switches.nextPc]
      exact h.savedPages s.nextTask
    · simp only [tmpc, Vector.getElem_set]
      split_ifs
      · exact page ▸ h.mpcPage
      · exact h.savedPages k

theorem RunOk.account {s : State} (h : RunOk s) : RunOk (account s) where
  banks := h.banks
  mpcPage := h.mpcPage
  nextPage := h.nextPage
  savedPages := h.savedPages
  timer := h.timer.of_eq rfl (Nat.le_refl _)
  clock := fun inside => by
    have := h.clock inside
    simp only [account_now, account_remain, account_sliceEnd]
    omega

theorem RunOk.beforeFetch {s : State} (h : RunOk s) : RunOk (beforeFetch s) := h.account.of_threads (beforeFetch_threads s)

theorem RunOk.fetch {s : State} (h : RunOk s) : RunOk (fetch s) :=
  { h with mpcPage := h.nextPage, timer := h.timer.of_eq rfl (Nat.le_refl _) }

theorem RunOk.microcycle {s t : State} (h : RunOk s) (run : microcycle s = .next t) : RunOk t := by
  rcases microcycle_cases s with ⟨-, e⟩ | ⟨-, -, e⟩ | ⟨-, -, e⟩ <;> rw [e] at run
  · exact Host.Outcome.next.inj run ▸ h.beforeFetch
  · cases run
  · exact Host.Outcome.next.inj run ▸ h.beforeFetch.fetch.runMicro _

/-- No fetch lies outside the store (R62, R101). -/
theorem RunOk.microcycle_answers {s : State} (h : RunOk s) : ∃ t, Machine.microcycle s = .next t := by
  rcases microcycle_cases s with ⟨-, e⟩ | ⟨-, outside, -⟩ | ⟨-, -, e⟩
  · exact ⟨_, e⟩
  · exact absurd (decide_eq_true h.beforeFetch.nextPage) (Bool.eq_false_iff.mp outside)
  · exact ⟨_, e⟩

theorem RunOk.endSlice {s : State} (h : RunOk s) : RunOk (endSlice s) :=
  { h with timer := h.timer.of_eq rfl (Nat.le_refl _), clock := fun inside => absurd inside Bool.false_ne_true }

theorem RunOk.afterCycle {s : State} (h : RunOk s) : RunOk (afterCycle s) := by
  rcases afterCycle_cases s with ⟨-, e⟩ | ⟨-, e⟩ <;> rw [e]
  · exact h
  · exact h.endSlice

theorem RunOk.beginSlice {s : State} (h : RunOk s) (b : Nat) : RunOk (beginSlice b s) :=
  { h with timer := h.timer.of_eq rfl (Nat.le_refl _), clock := fun _ => by simp }

theorem Turn.runOk {s t : State} (turn : Turn s t) (h : RunOk s) : RunOk t := by
  cases turn with
  | ends stops => exact h.endSlice
  | cycle goes run => exact (h.microcycle run).afterCycle

theorem HostAct.runOk {s t : State} (act : HostAct s t) (h : RunOk s) : RunOk t := by
  cases act with
  | slice b running turn => exact turn.runOk (h.beginSlice b)
  | halted fatal => exact h.withReply _
  | insert d c a n => exact { h with timer := (h.timer.insertEvent d c a n).of_eq rfl (Nat.le_refl _) }
  | remove id => exact { h with timer := (h.timer.removeEvent id).of_eq rfl (Nat.le_refl _) }
  | fire => exact (h.of_threads (fireDue_threads s)).withReply (fireDue s).reply
  | ask => exact h.withReply _

/-! ### The loop test -/

/-- A slice that a turn leaves running has passed the loop test. -/
theorem Turn.live {s t : State} (turn : Turn s t) (inside : t.inSlice = true) : sliceMayRun t = true := by
  cases turn with
  | ends stops => cases inside
  | @cycle u goes run =>
    rcases afterCycle_cases u with ⟨mayRun, e⟩ | ⟨-, e⟩ <;> rw [e] at inside ⊢
    · exact mayRun
    · cases inside

theorem HostAct.live {s t : State} (act : HostAct s t) (outside : s.inSlice = false) (inside : t.inSlice = true) :
    sliceMayRun t = true := by
  have none_inside (same : t.inSlice = s.inSlice) : sliceMayRun t = true := by simp [same, outside] at inside
  cases act with
  | slice b running turn => exact turn.live inside
  | halted fatal => exact none_inside rfl
  | insert d c a n => exact none_inside rfl
  | remove id => exact none_inside rfl
  | fire => exact none_inside (fireDue_kept s).inSlice
  | ask => exact none_inside rfl

/-! ### The store -/

theorem WrtramOnly.storeOk {s t : State} (h : WrtramOnly s t) (wf : Memory.wf s.store = true)
    (below : Memory.below s.store (storeWords s.cfg) = true) :
    Memory.wf t.store = true ∧ Memory.below t.store (storeWords s.cfg) = true := by
  rcases h with same | ⟨a, v, -, target, written⟩
  · rw [same]
    exact ⟨wf, below⟩
  · rw [written]
    exact ⟨Memory.wf_write _ _ _ wf, Memory.below_write _ _ (wrtramTarget_in_ram target).2 below⟩

/-- Settles O7: configuration and store by what a step writes of them, the rest by what a step can be. -/
theorem stepKeepsTheInvariant : Obligations.StepKeepsTheInvariant := by
  intro s s' inv h
  have cfg := stepNeverWritesTheConfiguration s s' h
  obtain ⟨storeWf, storeBelow⟩ := (step_wrtramOnly h).storeOk inv.storeWf inv.storeBelow
  have runOk : RunOk s' := by
    rcases step_acts h with ⟨-, turn⟩ | ⟨-, calls, act⟩
    · exact turn.runOk inv.runOk
    · exact act.runOk (inv.runOk.withHostCalls calls)
  have live (inside : s'.inSlice = true) : sliceMayRun s' = true := by
    rcases step_acts h with ⟨-, turn⟩ | ⟨outside, calls, act⟩
    · exact turn.live inside
    · exact act.live outside inside
  exact
    { config := cfg ▸ inv.config
      storeWf := storeWf
      storeBelow := cfg ▸ storeBelow
      banks := runOk.banks
      mpcPage := runOk.mpcPage
      nextPage := runOk.nextPage
      savedPages := runOk.savedPages
      timer := runOk.timer
      sliceClock := runOk.clock
      sliceLive := live }

/-! ### No step stops -/

theorem RunOk.sliceStep_answers {s : State} (h : RunOk s) : ∃ t, sliceStep s = .next t := by
  cases mayRun : sliceMayRun s with
  | false => exact ⟨_, sliceStep_over mayRun⟩
  | true =>
    obtain ⟨t, run⟩ := h.microcycle_answers
    exact ⟨_, sliceStep_next mayRun run⟩

theorem startExecute_running {s : State} (running : s.fatal = none) (b : Nat) :
    startExecute b s = sliceStep (beginSlice b s) := by
  simp [startExecute, running]

theorem RunOk.startExecute_answers {s : State} (h : RunOk s) (b : Nat) : ∃ t, startExecute b s = .next t := by
  by_cases running : s.fatal = none
  · rw [startExecute_running running]
    exact (h.beginSlice b).sliceStep_answers
  · exact ⟨_, startExecute_of_fatal running b⟩

theorem RunOk.hostCall_answers {s : State} (h : RunOk s) (call : HostCall) : ∃ t, hostCall call s = .next t := by
  cases call with
  | execute b => exact h.startExecute_answers b
  | insert d c a n => exact ⟨_, rfl⟩
  | remove id => exact ⟨_, rfl⟩
  | fireDue => exact ⟨_, rfl⟩
  | timeUntilNext => exact ⟨_, rfl⟩

theorem RunOk.hostLoop_answers {s : State} (h : RunOk s) : ∃ t, hostLoop s = .next t := by
  unfold hostLoop
  split
  · exact ⟨_, rfl⟩
  · exact h.startExecute_answers _

/-- Settles O10: the configuration is not refused, every act of the host's answers, and so does every microcycle. -/
theorem stepNeverStopsFromTheInvariant : Obligations.StepNeverStopsFromTheInvariant := by
  intro s inv
  unfold step stepBody
  rw [if_pos inv.config]
  split_ifs
  · exact inv.runOk.sliceStep_answers
  · split
    · rename_i call rest pending
      exact (inv.runOk.withHostCalls rest).hostCall_answers call
    · exact inv.runOk.hostLoop_answers

end Sys2Proof.Machine
end

section
/-! The family of spec/70_reset_and_hazards.md section 2 and the first step: what a launch gives (R264), what it and the step refuse
(R89, R155, R264), and the instruction that a step decodes and runs (R191, R206). -/

namespace Sys2Proof.Machine

/-! ### The parts of a well-formed configuration -/

theorem wellFormed_counts {c : Config} (wf : c.wellFormed = true) : 1 ≤ c.romPages ∧ 1 ≤ c.nsBank ∧ 0 < c.cycleNs := by
  simp only [Config.wellFormed, countsOk, Bool.and_eq_true, decide_eq_true_eq] at wf
  omega

theorem wellFormed_resetMpc {c : Config} (wf : c.wellFormed = true) (k : Task) :
    c.resetMpc[k.val] < c.pages * pageWords := by
  simp only [Config.wellFormed, Bool.and_eq_true] at wf
  obtain ⟨⟨⟨⟨⟨⟨⟨-, resets⟩, -⟩, -⟩, -⟩, -⟩, -⟩, -⟩ := wf
  simp only [resetMpcOk, List.all_eq_true, decide_eq_true_eq] at resets
  exact resets _ (Vector.mem_toList_iff.mpr (Vector.getElem_mem k.isLt))

theorem wellFormed_f1Codes {c : Config} (wf : c.wellFormed = true) :
    f1Task ≠ c.f1Const ∧ f1Task ≠ c.f1Wrtram ∧ f1Task ≠ c.f1Rdram ∧
      c.f1Const ≠ c.f1Wrtram ∧ c.f1Const ≠ c.f1Rdram ∧ c.f1Wrtram ≠ c.f1Rdram := by
  simp only [Config.wellFormed, Bool.and_eq_true] at wf
  obtain ⟨⟨⟨⟨⟨⟨-, codes⟩, -⟩, -⟩, -⟩, -⟩, -⟩ := wf
  exact of_decide_eq_true codes

/-- No collaborator holds a core-owned F1 slot (R155). -/
theorem wellFormed_fnF1 {c : Config} (wf : c.wellFormed = true) {g : Registration} (listed : g ∈ c.fnF1) :
    coreF1 c g.phase g.task (BitVec.ofNat 4 g.code) = none := by
  simp only [Config.wellFormed, Bool.and_eq_true] at wf
  obtain ⟨⟨⟨⟨-, slots⟩, -⟩, -⟩, -⟩ := wf
  simp only [f1RegistrationsOk, List.all_eq_true, Bool.and_eq_true, Option.isNone_iff_eq_none] at slots
  exact (slots g listed).2

/-- No collaborator holds the core-owned F2 slot (R155). -/
theorem wellFormed_fnF2 {c : Config} (wf : c.wellFormed = true) {g : Registration} (listed : g ∈ c.fnF2) :
    coreF2 c (BitVec.ofNat 4 g.code) = none := by
  simp only [Config.wellFormed, Bool.and_eq_true] at wf
  obtain ⟨⟨⟨-, slots⟩, -⟩, -⟩ := wf
  simp only [f2RegistrationsOk, List.all_eq_true, Bool.and_eq_true, Option.isNone_iff_eq_none] at slots
  exact (slots g listed).2

/-- The codes at which the core owns no F1 slot (R155). -/
theorem coreF1_eq_none_iff {c : Config} {phase : Phase} {k : Task} {code : BitVec 4} :
    coreF1 c phase k code = none ↔
      code ≠ f1Task ∧ code ≠ c.f1Const ∧ (k ∈ c.ramTasks → code ≠ c.f1Rdram ∧ code ≠ c.f1Wrtram) := by
  simp only [coreF1, isRamTask_iff]
  split_ifs with task const rdram wrtram <;> simp_all
  exact fun ram => ⟨fun e => rdram e ram, fun e => wrtram e ram⟩

theorem coreF2_eq_none_iff {c : Config} {code : BitVec 4} : coreF2 c code = none ↔ code ≠ c.f2Const := by
  simp [coreF2]

/-! ### What is refused -/

theorem step_refused {s : State} (illFormed : ¬ s.cfg.wellFormed = true) : step s = .refused .illFormedConfiguration :=
  if_neg illFormed

theorem launch_refused {c : Config} (illFormed : ¬ c.wellFormed = true) (image : Memory 32) (events : List InitialEvent) :
    launch c image events = .refused .illFormedConfiguration :=
  if_neg illFormed

/-- An image that lists a word outside the store is not accepted (R60). -/
theorem imageOk_word {c : Config} {image : Memory 32} (ok : imageOk c image = true) {a : Nat} {v : MicroWord}
    (listed : (a, v) ∈ image) : a < storeWords c := by
  simp only [imageOk, Memory.below, Bool.and_eq_true, List.all_eq_true, decide_eq_true_eq] at ok
  exact ok.2 _ listed

/-- Settles O11: each case contradicts a part of `Config.wellFormed`. -/
theorem illFormedConfigurationIsRefused : Obligations.IllFormedConfigurationIsRefused := by
  refine ⟨fun c image events a v wf listed outside => ?_, fun s image events broken => ?_⟩
  · have bad : ¬ imageOk c image = true := fun ok => absurd (imageOk_word ok listed) (Nat.not_lt.mpr outside)
    rw [launch, if_pos wf, if_neg bad]
  · have illFormed : ¬ s.cfg.wellFormed = true := fun wf => by
      obtain ⟨rom, banks, cycle⟩ := wellFormed_counts wf
      obtain ⟨taskConst, taskWrtram, taskRdram, constWrtram, constRdram, wrtramRdram⟩ := wellFormed_f1Codes wf
      rcases broken with h | h | h | ⟨k, h⟩ | h | h | h | h | h | h | ⟨g, listed, h⟩ | ⟨g, listed, ram, h⟩ | ⟨g, listed, h⟩
      · omega
      · omega
      · omega
      · exact absurd (wellFormed_resetMpc wf k) (Nat.not_lt.mpr h)
      · exact taskConst h.symm
      · exact taskWrtram h.symm
      · exact taskRdram h.symm
      · exact constWrtram h
      · exact constRdram h
      · exact wrtramRdram h
      · obtain ⟨notTask, notConst, -⟩ := coreF1_eq_none_iff.mp (wellFormed_fnF1 wf listed)
        rcases h with h | h <;> rw [h] at notTask notConst
        · exact notTask rfl
        · simp at notConst
      · obtain ⟨-, -, free⟩ := coreF1_eq_none_iff.mp (wellFormed_fnF1 wf listed)
        obtain ⟨notRdram, notWrtram⟩ := free ram
        rcases h with h | h <;> rw [h] at notRdram notWrtram
        · simp at notRdram
        · simp at notWrtram
      · have notConst := coreF2_eq_none_iff.mp (wellFormed_fnF2 wf listed)
        rw [h] at notConst
        simp at notConst
    exact ⟨step_refused illFormed, launch_refused illFormed image events⟩

/-! ### What a launch gives -/

theorem ofNat_page_lt {c : Config} {a : Nat} (inside : a < c.pages * pageWords) : (MicroAddr.ofNat a).page < c.pages :=
  Nat.div_lt_of_lt_mul (Nat.mul_comm .. ▸ inside)

/-- Engine initialisation with an accepted configuration and image meets the invariant. -/
theorem machineInv_init {c : Config} {image : Memory 32} (wf : c.wellFormed = true) (ok : imageOk c image = true) :
    MachineInv (State.init c image) := by
  obtain ⟨storeWf, storeBelow⟩ := (Bool.and_eq_true _ _).mp ok
  have reset (k : Task) := ofNat_page_lt (wellFormed_resetMpc wf k)
  exact
    { config := wf
      storeWf := storeWf
      storeBelow := storeBelow
      banks := List.length_replicate
      mpcPage := reset 0
      nextPage := reset 0
      savedPages := fun k => by simpa only [State.init, Vector.getElem_map] using reset k
      timer := ⟨.nil, fun e queued => by cases queued⟩
      sliceClock := fun inside => by cases inside
      sliceLive := fun inside => by cases inside }

/-- Settles O8: reset is the initialisation of the default configuration with an empty image. -/
theorem resetMeetsTheInvariant : Obligations.ResetMeetsTheInvariant :=
  machineInv_init (by decide +kernel) rfl

theorem insertAll_sBanks (events : List InitialEvent) (s : State) : (insertAll events s).sBanks = s.sBanks := by
  induction events generalizing s with
  | nil => rfl
  | cons e rest ih => exact ih _

/-- The initial events keep the invariant of a state between slices. -/
theorem MachineInv.insertAll {s : State} (h : MachineInv s) (outside : s.inSlice = false) (events : List InitialEvent) :
    MachineInv (insertAll events s) := by
  obtain ⟨kept, -, -⟩ := insertAll_spec events s
  have stillOutside : ¬ (Machine.insertAll events s).inSlice = true := by simp [kept.inSlice, outside]
  exact
    { config := kept.cfg ▸ h.config
      storeWf := kept.store ▸ h.storeWf
      storeBelow := by rw [kept.store, kept.cfg]; exact h.storeBelow
      banks := by rw [insertAll_sBanks, kept.cfg]; exact h.banks
      mpcPage := by rw [kept.mpc, kept.cfg]; exact h.mpcPage
      nextPage := by rw [kept.nextPc, kept.cfg]; exact h.nextPage
      savedPages := by rw [kept.tmpc, kept.cfg]; exact h.savedPages
      timer := h.timer.insertAll events
      sliceClock := fun inside => absurd inside stillOutside
      sliceLive := fun inside => absurd inside stillOutside }

/-- A launch that is not refused has checked configuration and image. -/
theorem launch_cases {c : Config} {image : Memory 32} {events : List InitialEvent} {s : State}
    (h : launch c image events = .next s) :
    c.wellFormed = true ∧ imageOk c image = true ∧ s = insertAll events (State.init c image) := by
  unfold launch at h
  split_ifs at h with wf ok
  exact ⟨wf, ok, (Host.Outcome.next.inj h).symm⟩

/-- Settles O9: initialisation meets the invariant, and the initial events only fill the queue. -/
theorem launchMeetsTheInvariant : Obligations.LaunchMeetsTheInvariant := by
  intro c image events s h
  obtain ⟨wf, ok, rfl⟩ := launch_cases h
  obtain ⟨kept, nextId, queue⟩ := insertAll_spec events (State.init c image)
  refine ⟨(machineInv_init wf ok).insertAll rfl events, kept.cfg, kept.store, kept.now, ?_, fun e => ?_⟩
  · rw [nextId]
    exact Nat.add_comm ..
  · rw [queue]
    simp [State.init, Nat.add_comm]

/-! ### The instruction a step runs -/

theorem microcycle_runs {s : State} (running : (beforeFetch s).fatal = none)
    (inside : inStore (beforeFetch s).cfg (fetchAddress (beforeFetch s)) = true) :
    microcycle s =
      exec (decode (ucRead (beforeFetch s) (fetchAddress (beforeFetch s)).toNat)) (fetch (beforeFetch s)) := by
  simp only [microcycle, running, inside, Option.isSome_none, Bool.false_eq_true, if_false, if_true]

theorem step_inside {s : State} (wf : s.cfg.wellFormed = true) (inside : s.inSlice = true) : step s = sliceStep s := by
  simp [step, stepBody, wf, inside]

/-- Settles O5: inside a slice the step is its turn; outside, the host loop starts one and takes its first turn. -/
theorem stepRunsTheDecodedInstruction : Obligations.StepRunsTheDecodedInstruction := by
  intro s s1 wf start goes running inside i decoded
  have run := microcycle_runs running inside
  rw [decoded, exec_eq] at run
  refine ⟨_, exec_eq i _, ?_⟩
  rw [← sliceStep_next goes run]
  rcases start with ⟨inSlice, rfl⟩ | ⟨outside, unfaulted, noCalls, idle, rfl⟩
  · exact step_inside wf inSlice
  · rw [step_outside wf outside noCalls, hostLoop, idle]
    exact startExecute_running unfaulted _

/-- Settles O6: the placed word stands at the reset micro-address, where the first microcycle of the host loop fetches. -/
theorem placedWordRunsAfterReset : Obligations.PlacedWordRunsAfterReset := by
  intro w
  have placed : State.reset.withFetchWord 32 w.toNat = ucWrite 0 w State.reset := by
    rw [State.withFetchWord, ofNat_toNat_word]
    rfl
  let u := beforeFetch (beginSlice 1700 (ucWrite 0 w State.reset))
  have address : fetchAddress u = ⟨0, 0#10⟩ :=
    (rfl : _ = fetchAddress (beforeFetch (beginSlice 1700 State.reset))).trans (by decide)
  have read : ucRead u (fetchAddress u).toNat = w := by
    rw [address, MicroAddr.toNat, Nat.zero_mul]
    exact Memory.read_write_same ..
  obtain ⟨t, run, steps⟩ := stepRunsTheDecodedInstruction (ucWrite 0 w State.reset)
    (beginSlice 1700 (ucWrite 0 w State.reset)) resetMeetsTheInvariant.config (.inr ⟨rfl, rfl, rfl, rfl, rfl⟩) rfl rfl
    rfl _ rfl
  refine ⟨u, t, by rw [placed], read, ?_, by rw [placed, steps]⟩
  rw [← run]
  exact congrArg (fun v => exec (decode v) (fetch u)) read.symm

end Sys2Proof.Machine
end

section
/-! The family of spec/44_engine.md sections 1 and 3, continued: a whole call of `execute` (R190, R203, R259). -/

namespace Sys2Proof.Machine

/-! ### The call as a loop -/

/-- In a running state the call is its loop from the beginning of the slice. -/
theorem execute_running {s : State} (running : s.fatal = none) (b : Nat) :
    execute b s = runSlice (b + 1) (beginSlice b s) := by
  rw [execute, startExecute_running running, runSlice, if_pos (beginSlice_inSlice s b)]

theorem runSlice_turn {s t : State} (inside : s.inSlice = true) (turn : sliceStep s = .next t) (fuel : Nat) :
    runSlice (fuel + 1) s = runSlice fuel t := by
  rw [runSlice, if_pos inside, turn]

theorem runSlice_fault {s : State} {f : Fault} (inside : s.inSlice = true) (turn : sliceStep s = .fault f) (fuel : Nat) :
    runSlice (fuel + 1) s = .fault f := by
  rw [runSlice, if_pos inside, turn]

theorem runSlice_refused {s : State} {r : Refusal} (inside : s.inSlice = true) (turn : sliceStep s = .refused r)
    (fuel : Nat) : runSlice (fuel + 1) s = .refused r := by
  rw [runSlice, if_pos inside, turn]

/-- Settles O47: the first microcycle uses up the budget. -/
theorem shortExecuteRunsOneMicrocycle : Obligations.ShortExecuteRunsOneMicrocycle := by
  intro s t b running positive short run
  have goes : sliceMayRun (beginSlice b s) = true :=
    (sliceMayRun_iff _).mpr ⟨by simpa using positive, rfl, running⟩
  have remain : t.remain = (b : Int) - s.cfg.cycleNs := (microcycle_quiet run).remain
  have stops : sliceMayRun t = false := by
    rw [Bool.eq_false_iff, Ne, sliceMayRun_iff, remain]
    omega
  have first : sliceStep (beginSlice b s) = .next (endSlice t) := by
    rw [sliceStep_next goes run, afterCycle, stops]
    rfl
  rw [execute_running running, runSlice_turn rfl first, runSlice_outside rfl]

theorem run_next {s t : State} (h : step s = .next t) (n : Nat) :
    Host.Core.run Sys2Proof.core (n + 1) s = Host.Core.run Sys2Proof.core n t := by
  have turn : Sys2Proof.core.step s = .next t := h
  simp only [Host.Core.run, turn]

theorem run_fault {s : State} {f : Fault} (h : step s = .fault f) : Host.Core.run Sys2Proof.core 1 s = .fault f := by
  have turn : Sys2Proof.core.step s = .fault f := h
  simp only [Host.Core.run, turn]

theorem run_refused {s : State} {r : Refusal} (h : step s = .refused r) :
    Host.Core.run Sys2Proof.core 1 s = .refused r := by
  have turn : Sys2Proof.core.step s = .refused r := h
  simp only [Host.Core.run, turn]

/-- A configuration that is well formed stays so, and inside a slice the machine's steps are the turns of its loop. -/
theorem run_eq_runSlice (fuel : Nat) {s : State} (wf : s.cfg.wellFormed = true) :
    ∃ n, Host.Core.run Sys2Proof.core n s = runSlice fuel s := by
  induction fuel generalizing s with
  | zero => exact ⟨0, rfl⟩
  | succ fuel ih =>
    cases inside : s.inSlice with
    | false => exact ⟨0, (runSlice_outside inside _).symm⟩
    | true =>
      have step_turn : step s = sliceStep s := step_inside wf inside
      cases turn : sliceStep s with
      | next t =>
        have cfg : t.cfg = s.cfg := (turn_of_sliceStep turn).cfg
        obtain ⟨n, steps⟩ := ih (s := t) (cfg ▸ wf)
        exact ⟨n + 1, by rw [runSlice_turn inside turn, ← steps, run_next (step_turn.trans turn)]⟩
      | fault f => exact ⟨1, (run_fault (step_turn.trans turn)).trans (runSlice_fault inside turn fuel).symm⟩
      | refused r => exact ⟨1, (run_refused (step_turn.trans turn)).trans (runSlice_refused inside turn fuel).symm⟩

/-- Settles O48: the step takes the host's call, and the steps after it are the turns of the loop. -/
theorem stepsOfASliceAreExecute : Obligations.StepsOfASliceAreExecute := by
  intro s b rest wf outside pending
  have call : step s = startExecute b { s with hostCalls := rest } := by
    simp only [step, stepBody, wf, outside, pending, if_true, Bool.false_eq_true, if_false, hostCall]
  unfold execute
  cases start : startExecute b { s with hostCalls := rest } with
  | next t =>
    have cfg : t.cfg = s.cfg := (hostAct_of_startExecute start).cfg
    obtain ⟨n, steps⟩ := run_eq_runSlice b (s := t) (cfg ▸ wf)
    exact ⟨n + 1, (run_next (call.trans start) n).trans steps⟩
  | fault f => exact ⟨1, run_fault (call.trans start)⟩
  | refused r => exact ⟨1, run_refused (call.trans start)⟩

/-! ### The consumed time -/

/-- A state inside a slice that began at `s` with budget `b`, after `n` of its microcycles. -/
structure SliceRun (s : State) (b n : Nat) (u : State) : Prop where
  runOk : RunOk u
  cfg : u.cfg = s.cfg
  inSlice : u.inSlice = true
  budget : u.budget = b
  now : u.now = s.now + n * s.cfg.cycleNs
  remain : u.remain = (b : Int) - (n * s.cfg.cycleNs : Nat)

theorem SliceRun.start {s : State} (h : RunOk s) (b : Nat) : SliceRun s b 0 (beginSlice b s) where
  runOk := h.beginSlice b
  cfg := rfl
  inSlice := rfl
  budget := rfl
  now := by simp
  remain := by simp

/-- A turn that runs takes one microcycle more. -/
theorem SliceRun.cycle {s u : State} {b n : Nat} (h : SliceRun s b n u) :
    ∃ t, microcycle u = .next t ∧ SliceRun s b (n + 1) t := by
  obtain ⟨t, run⟩ := h.runOk.microcycle_answers
  have quiet := microcycle_quiet run
  have now : t.now = u.now + u.cfg.cycleNs := quiet.now
  have remain : t.remain = u.remain - u.cfg.cycleNs := quiet.remain
  refine ⟨t, run, h.runOk.microcycle run, quiet.cfg.trans h.cfg, quiet.inSlice.trans h.inSlice,
    quiet.budget.trans h.budget, ?_, ?_⟩
  · rw [now, h.now, h.cfg, Nat.add_mul]
    omega
  · rw [remain, h.remain, h.cfg, Nat.add_mul]
    omega

/-- What the end of such a slice consumes: the cycles run, the last of which began within the budget. -/
structure SliceOver (s : State) (b n : Nat) (t : State) : Prop where
  run : SliceRun s b n t
  stops : sliceMayRun t = false
  some_cycle : 0 < b → 0 < n
  bound : n * s.cfg.cycleNs < b + s.cfg.cycleNs

/-- From a state whose loop test holds the loop ends within its fuel: every turn takes a part of the budget. -/
theorem SliceRun.ends {s u : State} {b n fuel : Nat} (h : SliceRun s b n u) (cycle : 0 < s.cfg.cycleNs)
    (goes : sliceMayRun u = true) (enough : u.remain ≤ fuel) :
    ∃ t n', runSlice fuel u = .next (endSlice t) ∧ SliceOver s b n' t := by
  induction fuel generalizing n u with
  | zero =>
    obtain ⟨left, -, -⟩ := (sliceMayRun_iff u).mp goes
    omega
  | succ fuel ih =>
    obtain ⟨t, run, next⟩ := h.cycle
    obtain ⟨left, -, -⟩ := (sliceMayRun_iff u).mp goes
    have began : n * s.cfg.cycleNs < b := by
      have := h.remain
      omega
    have grown : (n + 1) * s.cfg.cycleNs = n * s.cfg.cycleNs + s.cfg.cycleNs := Nat.succ_mul ..
    rw [runSlice_turn h.inSlice (sliceStep_next goes run)]
    rcases afterCycle_cases t with ⟨goesOn, e⟩ | ⟨stops, e⟩ <;> rw [e]
    · refine ih next goesOn ?_
      have before := h.remain
      have after := next.remain
      omega
    · refine ⟨t, n + 1, runSlice_outside rfl fuel, next, stops, fun _ => Nat.succ_pos n, ?_⟩
      omega

/-- The call of `execute` from a running state ends its slice. -/
theorem execute_ends {s : State} (inv : RunOk s) (cycle : 0 < s.cfg.cycleNs) (running : s.fatal = none) (b : Nat) :
    ∃ t n, execute b s = .next (endSlice t) ∧ SliceOver s b n t := by
  have start := SliceRun.start inv b
  rw [execute_running running]
  cases goes : sliceMayRun (beginSlice b s) with
  | true => exact start.ends cycle goes (by simp)
  | false =>
    have exhausted : b = 0 := by
      rw [Bool.eq_false_iff, Ne, sliceMayRun_iff] at goes
      by_contra positive
      exact goes ⟨by simpa using Nat.pos_of_ne_zero positive, rfl, running⟩
    refine ⟨_, 0, ?_, start, goes, fun positive => by omega, by omega⟩
    rw [runSlice_turn rfl (sliceStep_over goes), runSlice_outside rfl]

/-- Settles O46: what `SliceOver` says of the cycles run, at the end of the slice. -/
theorem executeConsumesWholeCycles : Obligations.ExecuteConsumesWholeCycles := by
  intro s b inv outside running
  obtain ⟨-, -, cycle⟩ := wellFormed_counts inv.config
  obtain ⟨t, n, call, run, stops, some_cycle, bound⟩ := execute_ends inv.runOk cycle running b
  have consumed : consumedNs t = n * s.cfg.cycleNs := by
    rw [consumedNs, run.budget, run.remain]
    omega
  refine ⟨endSlice t, n, call, rfl, by rw [endSlice_reply, consumed], run.now, fun empty => ?_, some_cycle, bound,
    fun notLeft unfaulted => ?_⟩
  · rw [empty, Nat.zero_add] at bound
    exact Nat.eq_zero_of_not_pos fun positive => absurd bound (Nat.not_lt.mpr (Nat.le_mul_of_pos_left _ positive))
  · by_contra short
    have left : 0 < t.remain := by
      rw [run.remain]
      omega
    simp [(sliceMayRun_iff t).mpr ⟨left, notLeft, unfaulted⟩] at stops

end Sys2Proof.Machine
end

section
/-! The families of spec/60_exceptions.md section 2 and spec/10_state.md section 9: what the core never looks at (R12, R52, R207,
R244). A state is veiled by other values of the model's own three fields and by earlier log entries; every part of a microinstruction
then answers the veiled state with the veil of its answer, and the statements follow from that. -/

namespace Sys2Proof.Machine

/-! ### The veil -/

/-- What the core never looks at: the host's side, and the log's earlier entries. -/
structure Unseen where
  hostCalls : List HostCall
  budget : Nat
  reply : Option HostReply
  earlier : List Anomaly

/-- The state with another host's side, and with entries in front of its log. -/
def veiled (k : Unseen) (s : State) : State :=
  { s with hostCalls := k.hostCalls, budget := k.budget, reply := k.reply, log := k.earlier ++ s.log }

/-- A handler does not see the veil: it is described, or the veil leaves the context as it is. -/
def HandlerBlind (k : Unseen) (h : Handler) : Prop := k.earlier = [] ∨ isDescribed h = true

/-- No collaborator of a microinstruction sees the veil. -/
def ConfigBlind (k : Unseen) (c : Config) : Prop := k.earlier = [] ∨ describedConfig c = true

theorem contextOf_veiled {k : Unseen} (noLog : k.earlier = []) (s : State) : contextOf (veiled k s) = contextOf s := by
  simp [contextOf, veiled, noLog]

/-- States with one context are veils of one another. -/
theorem veiled_of_contextOf_eq {s s' : State} (same : contextOf s = contextOf s') :
    s' = veiled ⟨s'.hostCalls, s'.budget, s'.reply, []⟩ s :=
  contextOf_eq_iff.mp same

/-! ### Handlers -/

theorem evalOperand_veiled (k : Unseen) (s : State) (o : Operand) : evalOperand (veiled k s) o = evalOperand s o := by
  cases o <;> rfl

theorem evalGuard_veiled (k : Unseen) (s : State) (g : Guard) : evalGuard (veiled k s) g = evalGuard s g := by
  cases g <;> simp only [evalGuard, evalOperand_veiled] <;> rfl

theorem logReport_veiled (k : Unseen) (report : AnomalyReport) (s : State) :
    logReport report (veiled k s) = veiled k (logReport report s) := by
  simp [logReport, veiled]

theorem applyAction_veiled (k : Unseen) (s : State) (a : Action) :
    applyAction (veiled k s) a = veiled k (applyAction s a) := by
  cases a with
  | logAnomaly text => exact logReport_veiled k _ s
  | _ => simp only [applyAction, evalOperand_veiled]; rfl

theorem runLines_veiled (k : Unseen) (lines : List ScriptLine) (s : State) :
    runLines lines (veiled k s) = (runLines lines s).map (veiled k) := by
  induction lines generalizing s with
  | nil => rfl
  | cons line rest ih =>
    simp only [runLines, evalGuard_veiled, applyAction_veiled, ih]
    split
    · split <;> rfl
    · rfl

theorem handlerLines_veiled {k : Unseen} {h : Handler} (blind : HandlerBlind k h) (arg : Option Int) (s : State) :
    handlerLines h arg (veiled k s) = handlerLines h arg s := by
  cases h with
  | script lines => rfl
  | external id =>
    rcases blind with noLog | described
    · simp only [handlerLines, contextOf_veiled noLog]
    · cases described

theorem callHandler_veiled {k : Unseen} {h : Handler} (blind : HandlerBlind k h) (arg : Option Int) (s : State) :
    callHandler h arg (veiled k s) = veiled k (callHandler h arg s) := by
  simp only [callHandler, handlerLines_veiled blind, runLines_veiled]
  cases runLines (handlerLines h arg s) s with
  | ok t => rfl
  | error e => rfl

/-! ### The collaborators of a blind configuration -/

theorem findRegistration_of_registered {table : List Registration} {phase : Phase} {task : Task} {code : Nat} {h : Handler}
    (found : collaboratorSlot table phase task code = .registered h) : findRegistration table phase task code = some h := by
  unfold collaboratorSlot at found
  split at found
  · next h' first => rw [first, SlotFn.registered.inj found]
  · cases found

theorem HandlerBlind.of_registered {k : Unseen} {table : List Registration} {phase : Phase} {task : Task} {code : Nat}
    {h : Handler} (blind : k.earlier = [] ∨ (table.all fun g => isDescribed g.handler) = true)
    (found : collaboratorSlot table phase task code = .registered h) : HandlerBlind k h := by
  refine blind.imp_right fun described => ?_
  obtain ⟨g, first, rfl⟩ := Option.map_eq_some_iff.mp (findRegistration_of_registered found)
  exact List.all_eq_true.mp described g (List.mem_of_find?_eq_some first)

theorem HandlerBlind.of_activateOf {k : Unseen} {c : Config} {task : Task} {h : Handler}
    (blind : k.earlier = [] ∨ (c.activate.all fun p => isDescribed p.2) = true) (found : activateOf c task = some h) :
    HandlerBlind k h := by
  refine blind.imp_right fun described => ?_
  obtain ⟨p, first, rfl⟩ := Option.map_eq_some_iff.mp found
  exact List.all_eq_true.mp described p (List.mem_of_find?_eq_some first)

/-- What a described configuration says of its tables, its activate callbacks, its tick hook and its stall predicate. -/
theorem describedConfig_iff (c : Config) :
    describedConfig c = true ↔
      (c.fnBs.all fun g => isDescribed g.handler) = true ∧ (c.fnF1.all fun g => isDescribed g.handler) = true ∧
      (c.fnF2.all fun g => isDescribed g.handler) = true ∧ (c.activate.all fun p => isDescribed p.2) = true ∧
      c.tick.all isDescribed = true ∧ ∀ id, c.stall ≠ .external id := by
  unfold describedConfig
  cases c.stall <;> simp [and_assoc]

/-- A slot of a blind configuration holds a core function, the stub, or a blind handler. -/
def SlotBlind (k : Unseen) (fn : SlotFn) : Prop := ∀ h, fn = .registered h → HandlerBlind k h

theorem bsSlot_blind {k : Unseen} {c : Config} (blind : ConfigBlind k c) (phase : Phase) (task : Task)
    (code : BitVec 3) : SlotBlind k (bsSlot c phase task code) := by
  refine fun h => .of_registered (blind.imp_right fun described => ?_)
  obtain ⟨bs, -⟩ := (describedConfig_iff c).mp described
  exact bs

theorem coreF1_ne_registered (c : Config) (phase : Phase) (task : Task) (code : BitVec 4) (h : Handler) :
    coreF1 c phase task code ≠ some (.registered h) := by
  unfold coreF1
  cases phase <;> split_ifs <;> simp

theorem f1Slot_blind {k : Unseen} {c : Config} (blind : ConfigBlind k c) (phase : Phase) (task : Task)
    (code : BitVec 4) : SlotBlind k (f1Slot c phase task code) := by
  intro h found
  rw [f1Slot] at found
  cases core : coreF1 c phase task code with
  | some fn =>
    rw [core] at found
    exact absurd (core.trans (congrArg some found)) (coreF1_ne_registered c phase task code h)
  | none =>
    rw [core] at found
    refine .of_registered (blind.imp_right fun described => ?_) found
    obtain ⟨-, f1, -⟩ := (describedConfig_iff c).mp described
    exact f1

theorem f2Slot_blind {k : Unseen} {c : Config} (blind : ConfigBlind k c) (phase : Phase) (task : Task)
    (code : BitVec 4) : SlotBlind k (f2Slot c phase task code) := by
  intro h found
  unfold f2Slot coreF2 at found
  split_ifs at found
  · cases found
  · refine .of_registered (blind.imp_right fun described => ?_) found
    obtain ⟨-, -, f2, -⟩ := (describedConfig_iff c).mp described
    exact f2

/-! ### The parts of a microinstruction -/

/-- A part of a microinstruction that does not see the veil. -/
def Blind (k : Unseen) (f : State → State) : Prop :=
  ∀ s, ConfigBlind k s.cfg → f (veiled k s) = veiled k (f s)

/-- A part of the steps 5 to 8, which keep the configuration among other elements: such parts compose. -/
structure BlindPart (k : Unseen) (f : State → State) : Prop where
  blind : Blind k f
  threads : ∀ s, Threads s (f s)

theorem Blind.comp {k : Unseen} {f g : State → State} (hg : Blind k g) (hf : BlindPart k f) : Blind k fun s => g (f s) := by
  intro s blind
  have cfg : (f s).cfg = s.cfg := (hf.threads s).quiet.cfg
  simp only [hf.blind s blind, hg (f s) (cfg.symm ▸ blind)]

theorem BlindPart.comp {k : Unseen} {f g : State → State} (hg : BlindPart k g) (hf : BlindPart k f) :
    BlindPart k fun s => g (f s) :=
  ⟨hg.blind.comp hf, fun s => (hf.threads s).trans (hg.threads (f s))⟩

theorem Blind.unlessFatal {k : Unseen} {f : State → State} (h : Blind k f) : Blind k (unlessFatal f) := by
  intro s blind
  by_cases running : s.fatal = none
  · rw [unlessFatal_running running, unlessFatal_running (s := veiled k s) running, h s blind]
  · rw [unlessFatal_halted running, unlessFatal_halted (s := veiled k s) running]

theorem isStalled_veiled {k : Unseen} {s : State} (blind : ConfigBlind k s.cfg) : isStalled (veiled k s) = isStalled s := by
  have cfg : (veiled k s).cfg = s.cfg := rfl
  unfold isStalled
  rw [cfg]
  cases stall : s.cfg.stall with
  | never => rfl
  | whenever g => exact evalGuard_veiled k s g
  | external id =>
    rcases blind with noLog | described
    · simp only [contextOf_veiled noLog]
    · obtain ⟨-, -, -, -, -, notExternal⟩ := (describedConfig_iff s.cfg).mp described
      exact absurd stall (notExternal id)

theorem runSlot_veiled {k : Unseen} {fn : SlotFn} (blind : SlotBlind k fn) (field : Field) (phase : Phase) (code : Nat)
    (s : State) : runSlot fn field phase code (veiled k s) = veiled k (runSlot fn field phase code s) := by
  cases fn with
  | registered h => exact callHandler_veiled (blind h rfl) none s
  | taskFunction =>
    cases phase with
    | late => rfl
    | early =>
      have wakeup : (veiled k s).wakeup = s.wakeup := rfl
      simp only [runSlot, taskFunction, wakeup]
      cases highestRequester s.wakeup <;> rfl
  | flagRdram => rfl
  | flagWrtram => rfl
  | noEffect => rfl
  | stub => rfl

theorem callBs_blind (k : Unseen) (phase : Phase) (code : BitVec 3) : BlindPart k (callBs phase code) where
  blind := .unlessFatal fun s blind => runSlot_veiled (bsSlot_blind blind phase s.curTask code) ..
  threads := callBs_threads phase code

theorem callF1_blind (k : Unseen) (phase : Phase) (code : BitVec 4) : BlindPart k (callF1 phase code) where
  blind := .unlessFatal fun s blind => runSlot_veiled (f1Slot_blind blind phase s.curTask code) ..
  threads := callF1_threads phase code

theorem callF2_blind (k : Unseen) (phase : Phase) (code : BitVec 4) : BlindPart k (callF2 phase code) where
  blind := .unlessFatal fun s blind => runSlot_veiled (f2Slot_blind blind phase s.curTask code) ..
  threads := callF2_threads phase code

/-- Entries added to a veiled log are the veil of the entries added. -/
theorem veiled_append (k : Unseen) (s : State) (new : List Anomaly) :
    (veiled k s).log ++ new = k.earlier ++ (s.log ++ new) :=
  List.append_assoc ..

theorem formBus_blind (k : Unseen) (m : Micro) : BlindPart k (formBus m) := by
  refine ⟨fun s _ => ?_, formBus_threads m⟩
  rw [formBus_eq, formBus_eq, veiled_append]
  rfl

theorem aluStep_blind (k : Unseen) (code : BitVec 4) : BlindPart k (aluStep code) := by
  refine ⟨fun s _ => ?_, aluStep_threads code⟩
  rw [aluStep_eq, aluStep_eq, veiled_append]
  rfl

theorem wrtramEffect_blind (k : Unseen) : Blind k wrtramEffect := by
  intro s _
  rw [wrtramEffect_eq, wrtramEffect_eq, veiled_append]
  rfl

theorem commit_blind (k : Unseen) (m : Micro) : BlindPart k (commit m) := by
  refine ⟨.unlessFatal fun s _ => ?_, commit_threads m⟩
  cases lBit : m.l <;> cases tBit : m.t <;> rfl

theorem callActivate_blind (k : Unseen) : Blind k callActivate := by
  intro s blind
  have same : activateOf (veiled k s).cfg (veiled k s).curTask = activateOf s.cfg s.curTask := rfl
  unfold callActivate
  rw [same]
  cases found : activateOf s.cfg s.curTask with
  | none => rfl
  | some h =>
    refine callHandler_veiled (.of_activateOf (blind.imp_right fun described => ?_) found) none s
    obtain ⟨-, -, -, activate, -⟩ := (describedConfig_iff s.cfg).mp described
    exact activate

theorem resolveSwitch_blind (k : Unseen) : Blind k resolveSwitch := by
  refine .unlessFatal fun s blind => ?_
  by_cases stay : s.curTask = s.nextTask
  · rw [if_pos stay, if_pos (show (veiled k s).curTask = (veiled k s).nextTask from stay)]
    rfl
  · rw [if_neg stay, if_neg (show (veiled k s).curTask ≠ (veiled k s).nextTask from stay)]
    exact callActivate_blind k (switchTo s.nextTask s) blind

theorem earlyPhase_blind (k : Unseen) (m : Micro) : BlindPart k (earlyPhase m) :=
  (callF1_blind k .early m.f1).comp ((callBs_blind k .early m.bs).comp (callF2_blind k .early m.f2))

theorem aluAndWrtram_blind (k : Unseen) (m : Micro) : BlindPart k (aluAndWrtram m) where
  blind := .unlessFatal ((wrtramEffect_blind k).comp (aluStep_blind k m.aluf))
  threads := aluAndWrtram_threads m

theorem latePhase_blind (k : Unseen) (m : Micro) : BlindPart k (latePhase m) :=
  (callF2_blind k .late m.f2).comp ((callF1_blind k .late m.f1).comp (callBs_blind k .late m.bs))

theorem beforeSwitch_blind (k : Unseen) (m : Micro) : BlindPart k (beforeSwitch m) :=
  (commit_blind k m).comp
    ((latePhase_blind k m).comp ((aluAndWrtram_blind k m).comp ((earlyPhase_blind k m).comp (formBus_blind k m))))

theorem executeSteps_blind (k : Unseen) (m : Micro) : Blind k (executeSteps m) :=
  (resolveSwitch_blind k).comp (beforeSwitch_blind k m)

theorem runMicro_blind (k : Unseen) (m : Micro) : Blind k (runMicro m) := by
  refine .unlessFatal fun s blind => ?_
  have decoded : loadMir m (veiled k s) = veiled k (loadMir m s) := rfl
  rw [decoded, isStalled_veiled (s := loadMir m s) blind]
  split_ifs
  · rfl
  · exact executeSteps_blind k m (advance m.next (loadMir m s)) blind

/-- Settles O59: the log before an instruction is a veil on the same state with an empty log. -/
theorem logNeverChangesAnInstruction : Obligations.LogNeverChangesAnInstruction := by
  intro i s g described
  have run (log : List Anomaly) : exec i { s with log := log } =
      .next (veiled ⟨s.hostCalls, s.budget, s.reply, log⟩ (runMicro (microOf i) { s with log := [] })) := by
    have start : { s with log := log } = veiled ⟨s.hostCalls, s.budget, s.reply, log⟩ { s with log := [] } := by
      simp [veiled]
    rw [exec_eq, start, runMicro_blind _ _ { s with log := [] } (.inr described)]
  exact ⟨_, (runMicro (microOf i) { s with log := [] }).log, run s.log, rfl, run g⟩

end Sys2Proof.Machine
end

section
/-! The family of spec/10_state.md section 9: later execution depends on the context alone (R12, R52, R207). States of one context are
veils of one another over the model's own fields alone, which no collaborator sees, described or open. -/

namespace Sys2Proof.Machine

/-! ### Instructions and events -/

theorem exec_veiled (k : Unseen) (noLog : k.earlier = []) (i : Instr) (s : State) :
    exec i (veiled k s) = .next (veiled k (runMicro (microOf i) s)) := by
  rw [exec_eq, runMicro_blind k (microOf i) s (.inl noLog)]

theorem exec_sameContext {i : Instr} {s s' t : State} (same : contextOf s = contextOf s') (run : exec i s = .next t) :
    ∃ t', exec i s' = .next t' ∧ contextOf t = contextOf t' := by
  rw [exec_eq] at run
  obtain rfl := Host.Outcome.next.inj run
  rw [veiled_of_contextOf_eq same]
  exact ⟨_, exec_veiled _ rfl i s, (contextOf_veiled rfl _).symm⟩

theorem runEvent_veiled {k : Unseen} (noLog : k.earlier = []) (e : Event) (s : State) :
    runEvent e (veiled k s) = veiled k (runEvent e s) := by
  have call := callHandler_veiled (k := k) (.inl noLog) (h := callbackOf s.cfg e.callback) (some e.arg) (callbackState e s)
  exact congrArg (fun t : State => { t with now := s.now }) call

/-- What is read off the context is one for states of one context. -/
theorem read_sameContext {α : Type} {s s' : State} (read : State → α) (ofContext : ∀ u, read (contextOf u) = read u)
    (same : contextOf s = contextOf s') : read s = read s' := by
  rw [← ofContext s, same, ofContext s']

theorem fireDue_sameContext {s s' : State} (same : contextOf s = contextOf s') :
    contextOf (fireDue s) = contextOf (fireDue s') ∧ (fireDue s).reply = (fireDue s').reply := by
  have sameDue : dueEvent s = dueEvent s' := read_sameContext dueEvent (fun _ => rfl) same
  refine ⟨?_, by rw [fireDue_reply, fireDue_reply, sameDue]⟩
  cases due : dueEvent s with
  | none =>
    rw [fireDue_idle due, fireDue_idle (sameDue ▸ due)]
    exact same
  | some e =>
    rw [fireDue_due due, fireDue_due (sameDue ▸ due), veiled_of_contextOf_eq same, runEvent_veiled rfl]
    exact (contextOf_veiled (k := ⟨s'.hostCalls, s'.budget, s'.reply, []⟩) rfl (runEvent e s)).symm

/-! ### A microcycle -/

theorem tick_blind (k : Unseen) : Blind k tick := by
  intro s blind
  have cfg : (veiled k s).cfg = s.cfg := rfl
  unfold tick
  rw [cfg]
  cases hook : s.cfg.tick with
  | none => rfl
  | some h =>
    refine callHandler_veiled (blind.imp_right fun described => ?_) none s
    obtain ⟨-, -, -, -, tick, -⟩ := (describedConfig_iff s.cfg).mp described
    simpa [hook] using tick

theorem beforeFetch_blind (k : Unseen) : Blind k beforeFetch := fun s blind => tick_blind k (account s) blind

theorem microcycle_veiled {k : Unseen} (noLog : k.earlier = []) {s t : State} (run : microcycle s = .next t) :
    microcycle (veiled k s) = .next (veiled k t) := by
  have before := beforeFetch_blind k s (.inl noLog)
  rcases microcycle_cases s with ⟨fatal, e⟩ | ⟨-, -, e⟩ | ⟨running, inside, e⟩
  · obtain rfl := Host.Outcome.next.inj (e.symm.trans run)
    rw [microcycle, before]
    exact if_pos (Option.isSome_iff_ne_none.mpr fatal)
  · cases e.symm.trans run
  · rw [microcycle_runs running inside, exec_eq] at run
    obtain rfl := Host.Outcome.next.inj run
    rw [microcycle_runs (by rw [before]; exact running) (by rw [before]; exact inside), before]
    exact exec_veiled k noLog _ (fetch (beforeFetch s))

theorem microcycle_sameContext {s s' t : State} (same : contextOf s = contextOf s') (run : microcycle s = .next t) :
    ∃ t', microcycle s' = .next t' ∧ contextOf t = contextOf t' := by
  rw [veiled_of_contextOf_eq same]
  exact ⟨_, microcycle_veiled rfl run, (contextOf_veiled rfl _).symm⟩

/-! ### A whole call of `execute` -/

/-- Two states of one context in calls of one budget; the replies are one when the calls have returned. -/
structure SameRun (s s' : State) : Prop where
  context : contextOf s = contextOf s'
  budget : s.budget = s'.budget
  reply : s.inSlice = false → s.reply = s'.reply

theorem sameRun_beginSlice {s s' : State} (same : contextOf s = contextOf s') (b : Nat) :
    SameRun (beginSlice b s) (beginSlice b s') where
  context := read_sameContext (fun u => contextOf (beginSlice b u)) (fun _ => rfl) same
  budget := rfl
  reply := fun outside => by cases outside

theorem sameRun_endSlice {s s' : State} (same : contextOf s = contextOf s') (budget : s.budget = s'.budget) :
    SameRun (endSlice s) (endSlice s') where
  context := read_sameContext (fun u => contextOf (endSlice u)) (fun _ => rfl) same
  budget := budget
  reply := fun _ => by
    have remain : s.remain = s'.remain := read_sameContext State.remain (fun _ => rfl) same
    rw [endSlice_reply, endSlice_reply, consumedNs, consumedNs, budget, remain]

theorem sliceMayRun_sameContext {s s' : State} (same : contextOf s = contextOf s') : sliceMayRun s = sliceMayRun s' :=
  read_sameContext sliceMayRun (fun _ => rfl) same

/-- One turn of the loop, from inside a slice, goes alike in both. -/
theorem SameRun.turn {s s' t : State} (h : SameRun s s') (inside : s.inSlice = true) (turn : sliceStep s = .next t) :
    ∃ t', sliceStep s' = .next t' ∧ SameRun t t' := by
  have sameTest := sliceMayRun_sameContext h.context
  rcases sliceStep_cases turn with ⟨stops, rfl⟩ | ⟨goes, u, run, rfl⟩
  · exact ⟨_, sliceStep_over (sameTest ▸ stops), sameRun_endSlice h.context h.budget⟩
  · obtain ⟨u', run', same⟩ := microcycle_sameContext h.context run
    have kept := (microcycle_quiet run).budget
    have kept' := (microcycle_quiet run').budget
    have budget : u.budget = u'.budget := kept.trans (h.budget.trans kept'.symm)
    have stillInside : u.inSlice = true := (microcycle_quiet run).inSlice.trans inside
    refine ⟨_, sliceStep_next (sameTest ▸ goes) run', ?_⟩
    rcases afterCycle_cases u with ⟨goesOn, e⟩ | ⟨stops, e⟩
    · have e' : afterCycle u' = u' := if_pos (sliceMayRun_sameContext same ▸ goesOn)
      rw [e, e']
      exact ⟨same, budget, fun outside => absurd (outside.symm.trans stillInside) Bool.false_ne_true⟩
    · have e' : afterCycle u' = endSlice u' := if_neg (by rw [← sliceMayRun_sameContext same, stops]; decide)
      rw [e, e']
      exact sameRun_endSlice same budget

theorem SameRun.loop {s s' t : State} (h : SameRun s s') (fuel : Nat) (run : runSlice fuel s = .next t) :
    ∃ t', runSlice fuel s' = .next t' ∧ SameRun t t' := by
  have sameSlice : s.inSlice = s'.inSlice := read_sameContext State.inSlice (fun _ => rfl) h.context
  induction fuel generalizing s s' with
  | zero => exact ⟨s', rfl, Host.Outcome.next.inj run ▸ h⟩
  | succ fuel ih =>
    cases inside : s.inSlice with
    | false =>
      rw [runSlice_outside inside] at run
      exact ⟨s', runSlice_outside (sameSlice ▸ inside) _, Host.Outcome.next.inj run ▸ h⟩
    | true =>
      cases turn : sliceStep s with
      | next u =>
        obtain ⟨u', turn', same⟩ := h.turn inside turn
        rw [runSlice_turn inside turn] at run
        rw [runSlice_turn (sameSlice ▸ inside) turn']
        exact ih same run (read_sameContext State.inSlice (fun _ => rfl) same.context)
      | fault f => cases (runSlice_fault inside turn fuel).symm.trans run
      | refused r => cases (runSlice_refused inside turn fuel).symm.trans run

/-- A whole call goes alike in both: the calls begin with one budget, go on turn by turn, and return. -/
theorem execute_sameContext {s s' t : State} {b : Nat} (same : contextOf s = contextOf s') (inv : MachineInv s)
    (outside : s.inSlice = false) (call : execute b s = .next t) :
    ∃ t', execute b s' = .next t' ∧ contextOf t = contextOf t' ∧ t.reply = t'.reply := by
  have sameFatal : s.fatal = s'.fatal := read_sameContext State.fatal (fun _ => rfl) same
  have sameSlice : s.inSlice = s'.inSlice := read_sameContext State.inSlice (fun _ => rfl) same
  by_cases running : s.fatal = none
  · obtain ⟨u, -, ends, returned, -⟩ := executeConsumesWholeCycles s b inv outside running
    obtain rfl := Host.Outcome.next.inj (ends.symm.trans call)
    rw [execute_running running] at call
    obtain ⟨t', call', h⟩ := (sameRun_beginSlice same b).loop _ call
    exact ⟨t', (execute_running (sameFatal ▸ running) b).trans call', h.context, h.reply returned⟩
  · rw [execute_of_fatal running outside] at call
    obtain rfl := Host.Outcome.next.inj call
    exact ⟨_, execute_of_fatal (sameFatal ▸ running) (sameSlice ▸ outside) b, same, rfl⟩

/-- Settles O60: the parts above. -/
theorem contextDecidesExecution : Obligations.ContextDecidesExecution := fun _ _ same =>
  ⟨fun _ _ => exec_sameContext same, fun _ => microcycle_sameContext same, fireDue_sameContext same,
    fun inv outside _ _ => execute_sameContext same inv outside⟩

end Sys2Proof.Machine
end
